-- ==== Sys2Proof/Word.lean ====
section
/-! DEFINITION. The words of the KOBZ CORE: bytes, 16-bit words, address literals, nibbles, register and key numbers. -/

namespace Sys2Proof

/-- A byte of memory or a general register (R20, R21). -/
abbrev Byte := BitVec 8

/-- A 16-bit word: an opcode, `I`, `pc`, a stack entry (R70, R23, R24, R26). -/
abbrev Word := BitVec 16

/-- A 12-bit address literal `NNN` (R71). -/
abbrev Addr := BitVec 12

/-- A 4-bit immediate `N` (R71). -/
abbrev Nibble := BitVec 4

/-- A register number `X` or `Y`: every value 0 to 15 is a valid index (R79). -/
abbrev Reg := Fin 16

/-- A logical key number 0 to 15 (R30). -/
abbrev Key := Fin 16

end Sys2Proof
end

