-- ==== Sys2Proof/Machine/Flags.lean ====
section
/-! DEFINITION. Every result and flag computation of the register instructions: 8-bit unsigned, computed exactly over the naturals and narrowed modulo 256; the flag is the byte 0 or 1 (R141, R142). -/

namespace Sys2Proof.Machine

/-- The flag as a byte: always 0 or 1 (R142). -/
def flagByte (c : Bool) : Byte := if c then 1 else 0

/-- `(a + b) mod 256` (R141). -/
def sum8 (a b : Byte) : Byte := BitVec.ofNat 8 ((a.toNat + b.toNat) % 256)

/-- The carry: 1 iff `a + b > 255` (R136, R141). -/
def carry (a b : Byte) : Byte := flagByte (decide (255 < a.toNat + b.toNat))

/-- `(a - b) mod 256` (R141). -/
def diff8 (a b : Byte) : Byte := BitVec.ofNat 8 ((256 + a.toNat - b.toNat) % 256)

/-- The not-borrow: 1 iff `a ≥ b` (R137, R141). -/
def noBorrow (a b : Byte) : Byte := flagByte (decide (b.toNat ≤ a.toNat))

/-- `src >> 1` (R138). -/
def half8 (a : Byte) : Byte := BitVec.ofNat 8 (a.toNat / 2)

/-- The bit SHR shifts out: bit 0 of the source (R138). -/
def lowBit (a : Byte) : Byte := flagByte (a.getLsbD 0)

/-- `(src * 2) mod 256` (R140). -/
def double8 (a : Byte) : Byte := BitVec.ofNat 8 (a.toNat * 2 % 256)

/-- The bit SHL shifts out: bit 7 of the source (R140). -/
def highBit (a : Byte) : Byte := flagByte (a.getLsbD 7)

end Sys2Proof.Machine
end

