-- ==== Sys2Proof/Syntax.lean ====
section
/-! DEFINITION. The instruction set as syntax: one constructor per row of spec/opcode_table.json (R73). -/

namespace Sys2Proof

/-- The decoded instruction (R35, R73): the operation with the operand fields it uses (R71). -/
inductive Instr where
  /-- `00E0` clear-screen (R180). -/
  | cls
  /-- `00EE` return (R110). -/
  | ret
  /-- `1NNN` jump (R111). -/
  | jp (nnn : Addr)
  /-- `2NNN` call (R112). -/
  | call (nnn : Addr)
  /-- `3XNN` skip-if-equal, register and immediate (R113). -/
  | seImm (x : Reg) (nn : Byte)
  /-- `4XNN` skip-if-not-equal, register and immediate (R114). -/
  | sneImm (x : Reg) (nn : Byte)
  /-- `5XY0` skip-if-registers-equal (R115). -/
  | seReg (x y : Reg)
  /-- `6XNN` load-immediate (R130). -/
  | ldImm (x : Reg) (nn : Byte)
  /-- `7XNN` add-immediate (R131). -/
  | addImm (x : Reg) (nn : Byte)
  /-- `8XY0` assign (R132). -/
  | ldReg (x y : Reg)
  /-- `8XY1` OR (R133). -/
  | or (x y : Reg)
  /-- `8XY2` AND (R134). -/
  | and (x y : Reg)
  /-- `8XY3` XOR (R135). -/
  | xor (x y : Reg)
  /-- `8XY4` ADD with carry out (R136). -/
  | addReg (x y : Reg)
  /-- `8XY5` SUB with not-borrow out (R137). -/
  | sub (x y : Reg)
  /-- `8XY6` shift right by one (R138). -/
  | shr (x y : Reg)
  /-- `8XY7` reverse subtraction (R139). -/
  | subn (x y : Reg)
  /-- `8XYE` shift left by one (R140). -/
  | shl (x y : Reg)
  /-- `9XY0` skip-if-registers-not-equal (R116). -/
  | sneReg (x y : Reg)
  /-- `ANNN` set-index (R160). -/
  | ldI (nnn : Addr)
  /-- `BNNN` jump-plus-v0 (R117). -/
  | jpV0 (nnn : Addr)
  /-- `CXNN` randomize under a mask (R195). -/
  | rnd (x : Reg) (nn : Byte)
  /-- `DXYN` draw-sprite (R181). -/
  | drw (x y : Reg) (n : Nibble)
  /-- `EX9E` skip-if-key-pressed (R190). -/
  | skp (x : Reg)
  /-- `EXA1` skip-if-key-not-pressed (R191). -/
  | sknp (x : Reg)
  /-- `FX07` read-delay-timer (R192). -/
  | ldVxDt (x : Reg)
  /-- `FX0A` await-key (R194). -/
  | ldVxK (x : Reg)
  /-- `FX15` set-delay-timer (R193). -/
  | ldDtVx (x : Reg)
  /-- `FX1E` add-index (R161). -/
  | addI (x : Reg)
  /-- `FX29` font-address (R162). -/
  | ldF (x : Reg)
  /-- `FX33` store-bcd (R163). -/
  | ldB (x : Reg)
  /-- `FX55` register-dump of `V[0]` to `V[X]` (R164). -/
  | ldMemVx (x : Reg)
  /-- `FX65` register-load of `V[0]` to `V[X]` (R165). -/
  | ldVxMem (x : Reg)
  /-- Any other word, a no-op that the outcome reports with its word (R210, R97). -/
  | unrecognized (op : Word)
  deriving DecidableEq, Repr

/-- The 34 operations without their operands: the rows of the opcode table (R73, R74). -/
inductive Op where
  | cls | ret | jp | call | seImm | sneImm | seReg | ldImm | addImm | ldReg | or | and | xor
  | addReg | sub | shr | subn | shl | sneReg | ldI | jpV0 | rnd | drw | skp | sknp | ldVxDt | ldVxK
  | ldDtVx | addI | ldF | ldB | ldMemVx | ldVxMem | unrecognized
  deriving DecidableEq, Repr

/-- The operation an instruction is an instance of. -/
def Instr.op : Instr → Op
  | .cls => .cls
  | .ret => .ret
  | .jp _ => .jp
  | .call _ => .call
  | .seImm _ _ => .seImm
  | .sneImm _ _ => .sneImm
  | .seReg _ _ => .seReg
  | .ldImm _ _ => .ldImm
  | .addImm _ _ => .addImm
  | .ldReg _ _ => .ldReg
  | .or _ _ => .or
  | .and _ _ => .and
  | .xor _ _ => .xor
  | .addReg _ _ => .addReg
  | .sub _ _ => .sub
  | .shr _ _ => .shr
  | .subn _ _ => .subn
  | .shl _ _ => .shl
  | .sneReg _ _ => .sneReg
  | .ldI _ => .ldI
  | .jpV0 _ => .jpV0
  | .rnd _ _ => .rnd
  | .drw _ _ _ => .drw
  | .skp _ => .skp
  | .sknp _ => .sknp
  | .ldVxDt _ => .ldVxDt
  | .ldVxK _ => .ldVxK
  | .ldDtVx _ => .ldDtVx
  | .addI _ => .addI
  | .ldF _ => .ldF
  | .ldB _ => .ldB
  | .ldMemVx _ => .ldMemVx
  | .ldVxMem _ => .ldVxMem
  | .unrecognized _ => .unrecognized

end Sys2Proof
end

