-- ==== Sys2Proof/WellFormed.lean ====
section
/-! DEFINITION. Which terms of Instr stand for an instruction: the operand types admit every field value (R79), so the one check is that an unrecognized word is one of those R75 lists. -/

namespace Sys2Proof

/-- The list of R75: the words that match no operation.
Family 0 but `00E0` and `00EE`; `5XYN` and `9XYN` with `N` not 0; `8XYN` with an undefined `N`;
`EXNN` and `FXNN` with an undefined low byte. -/
abbrev unrecognizedWord (op : Word) : Prop :=
  let family := op.toNat / 4096
  let n := op.toNat % 16
  let nn := op.toNat % 256
  (family = 0x0 ∧ op.toNat ≠ 0x00E0 ∧ op.toNat ≠ 0x00EE) ∨
  (family = 0x5 ∧ n ≠ 0) ∨
  (family = 0x9 ∧ n ≠ 0) ∨
  (family = 0x8 ∧ n ∈ [0x8, 0x9, 0xA, 0xB, 0xC, 0xD, 0xF]) ∨
  (family = 0xE ∧ nn ∉ [0x9E, 0xA1]) ∨
  (family = 0xF ∧ nn ∉ [0x07, 0x0A, 0x15, 0x1E, 0x29, 0x33, 0x55, 0x65])

/-- An instruction is well formed unless it is `unrecognized` with a word of one of the 33 operations (R74, R75, R79). -/
def Instr.wellFormed : Instr → Bool
  | .unrecognized op => decide (unrecognizedWord op)
  | _ => true

end Sys2Proof
end

