-- ==== Sys2Proof/Decode.lean ====
section
/-! DEFINITION. Decoding and encoding (R70 to R75), and the opcode table as data (R73). -/

namespace Sys2Proof

/-! ### The five operand fields (R71) -/

/-- The family nibble `op[15:12]`. -/
def familyOf (op : Word) : Nibble := op.extractLsb' 12 4

/-- `X = op[11:8]`. -/
def xOf (op : Word) : Reg := (op.extractLsb' 8 4).toFin

/-- `Y = op[7:4]`. -/
def yOf (op : Word) : Reg := (op.extractLsb' 4 4).toFin

/-- `N = op[3:0]`. -/
def nOf (op : Word) : Nibble := op.extractLsb' 0 4

/-- `NN = op[7:0]`. -/
def nnOf (op : Word) : Byte := op.extractLsb' 0 8

/-- `NNN = op[11:0]`. -/
def nnnOf (op : Word) : Addr := op.extractLsb' 0 12

/-! ### Decoding -/

/-- Decoding of a word: a total function of the word alone (R74), selected by the family nibble and,
in the families 0, 5, 8, 9, E and F, by the fixed low nibble or low byte (R73). -/
def decodeWord (op : Word) : Instr :=
  match familyOf op with
  | 0x0#4 => if op = 0x00E0#16 then .cls else if op = 0x00EE#16 then .ret else .unrecognized op
  | 0x1#4 => .jp (nnnOf op)
  | 0x2#4 => .call (nnnOf op)
  | 0x3#4 => .seImm (xOf op) (nnOf op)
  | 0x4#4 => .sneImm (xOf op) (nnOf op)
  | 0x5#4 => if nOf op = 0x0#4 then .seReg (xOf op) (yOf op) else .unrecognized op
  | 0x6#4 => .ldImm (xOf op) (nnOf op)
  | 0x7#4 => .addImm (xOf op) (nnOf op)
  | 0x8#4 =>
    match nOf op with
    | 0x0#4 => .ldReg (xOf op) (yOf op)
    | 0x1#4 => .or (xOf op) (yOf op)
    | 0x2#4 => .and (xOf op) (yOf op)
    | 0x3#4 => .xor (xOf op) (yOf op)
    | 0x4#4 => .addReg (xOf op) (yOf op)
    | 0x5#4 => .sub (xOf op) (yOf op)
    | 0x6#4 => .shr (xOf op) (yOf op)
    | 0x7#4 => .subn (xOf op) (yOf op)
    | 0xE#4 => .shl (xOf op) (yOf op)
    | _ => .unrecognized op
  | 0x9#4 => if nOf op = 0x0#4 then .sneReg (xOf op) (yOf op) else .unrecognized op
  | 0xA#4 => .ldI (nnnOf op)
  | 0xB#4 => .jpV0 (nnnOf op)
  | 0xC#4 => .rnd (xOf op) (nnOf op)
  | 0xD#4 => .drw (xOf op) (yOf op) (nOf op)
  | 0xE#4 =>
    match nnOf op with
    | 0x9E#8 => .skp (xOf op)
    | 0xA1#8 => .sknp (xOf op)
    | _ => .unrecognized op
  | 0xF#4 =>
    match nnOf op with
    | 0x07#8 => .ldVxDt (xOf op)
    | 0x0A#8 => .ldVxK (xOf op)
    | 0x15#8 => .ldDtVx (xOf op)
    | 0x1E#8 => .addI (xOf op)
    | 0x29#8 => .ldF (xOf op)
    | 0x33#8 => .ldB (xOf op)
    | 0x55#8 => .ldMemVx (xOf op)
    | 0x65#8 => .ldVxMem (xOf op)
    | _ => .unrecognized op
  | _ => .unrecognized op

/-- Why a byte string holds no instruction: only that it ends too early (R70: every instruction is 2 bytes).
No word is rejected (R74). -/
inductive DecodeError where
  | truncated
  deriving DecidableEq, Repr

/-- The big-endian combination of two bytes: the byte at the lower address is bits 15 to 8 (R52). -/
def wordOfBytes (hi lo : Byte) : Word := BitVec.ofNat 16 (hi.toNat * 256 + lo.toNat)

/-- The two bytes of a word, the one for the lower address first (R52). -/
def bytesOfWord (op : Word) : List Byte := [op.extractLsb' 8 8, op.extractLsb' 0 8]

/-- Decoding of a byte string: the instruction in its first two bytes, and the rest. -/
def decode : List Byte → Except DecodeError (Instr × List Byte)
  | hi :: lo :: rest => .ok (decodeWord (wordOfBytes hi lo), rest)
  | _ => .error .truncated

/-! ### Encoding -/

/-- Four nibbles as a word: the pattern of four hexadecimal digits (R71). -/
def word4 (family x y n : Nibble) : Word :=
  BitVec.ofNat 16 (((family.toNat * 16 + x.toNat) * 16 + y.toNat) * 16 + n.toNat)

/-- The format `XNN` (R72). -/
def wordXNN (family x : Nibble) (nn : Byte) : Word :=
  BitVec.ofNat 16 ((family.toNat * 16 + x.toNat) * 256 + nn.toNat)

/-- The format `NNN` (R72). -/
def wordNNN (family : Nibble) (nnn : Addr) : Word := BitVec.ofNat 16 (family.toNat * 4096 + nnn.toNat)

/-- A register number as the nibble of its field. -/
def regNibble (r : Reg) : Nibble := BitVec.ofFin r

/-- The word of an instruction, from the patterns of R73. -/
def encode : Instr → Word
  | .cls => 0x00E0
  | .ret => 0x00EE
  | .jp nnn => wordNNN 0x1 nnn
  | .call nnn => wordNNN 0x2 nnn
  | .seImm x nn => wordXNN 0x3 (regNibble x) nn
  | .sneImm x nn => wordXNN 0x4 (regNibble x) nn
  | .seReg x y => word4 0x5 (regNibble x) (regNibble y) 0x0
  | .ldImm x nn => wordXNN 0x6 (regNibble x) nn
  | .addImm x nn => wordXNN 0x7 (regNibble x) nn
  | .ldReg x y => word4 0x8 (regNibble x) (regNibble y) 0x0
  | .or x y => word4 0x8 (regNibble x) (regNibble y) 0x1
  | .and x y => word4 0x8 (regNibble x) (regNibble y) 0x2
  | .xor x y => word4 0x8 (regNibble x) (regNibble y) 0x3
  | .addReg x y => word4 0x8 (regNibble x) (regNibble y) 0x4
  | .sub x y => word4 0x8 (regNibble x) (regNibble y) 0x5
  | .shr x y => word4 0x8 (regNibble x) (regNibble y) 0x6
  | .subn x y => word4 0x8 (regNibble x) (regNibble y) 0x7
  | .shl x y => word4 0x8 (regNibble x) (regNibble y) 0xE
  | .sneReg x y => word4 0x9 (regNibble x) (regNibble y) 0x0
  | .ldI nnn => wordNNN 0xA nnn
  | .jpV0 nnn => wordNNN 0xB nnn
  | .rnd x nn => wordXNN 0xC (regNibble x) nn
  | .drw x y n => word4 0xD (regNibble x) (regNibble y) n
  | .skp x => wordXNN 0xE (regNibble x) 0x9E
  | .sknp x => wordXNN 0xE (regNibble x) 0xA1
  | .ldVxDt x => wordXNN 0xF (regNibble x) 0x07
  | .ldVxK x => wordXNN 0xF (regNibble x) 0x0A
  | .ldDtVx x => wordXNN 0xF (regNibble x) 0x15
  | .addI x => wordXNN 0xF (regNibble x) 0x1E
  | .ldF x => wordXNN 0xF (regNibble x) 0x29
  | .ldB x => wordXNN 0xF (regNibble x) 0x33
  | .ldMemVx x => wordXNN 0xF (regNibble x) 0x55
  | .ldVxMem x => wordXNN 0xF (regNibble x) 0x65
  | .unrecognized op => op

/-! ### The opcode table as data (R73, R74; spec/opcode_table.json) -/

/-- A row: a word `w` selects it when `w AND mask = pattern` (R73). -/
structure OpcodeRow where
  op : Op
  mask : Word
  pattern : Word
  deriving DecidableEq, Repr

/-- The 33 real rows, in the table's order (R73). -/
def opcodeTable : List OpcodeRow :=
  [⟨.cls, 0xFFFF, 0x00E0⟩, ⟨.ret, 0xFFFF, 0x00EE⟩, ⟨.jp, 0xF000, 0x1000⟩, ⟨.call, 0xF000, 0x2000⟩,
   ⟨.seImm, 0xF000, 0x3000⟩, ⟨.sneImm, 0xF000, 0x4000⟩, ⟨.seReg, 0xF00F, 0x5000⟩,
   ⟨.ldImm, 0xF000, 0x6000⟩, ⟨.addImm, 0xF000, 0x7000⟩, ⟨.ldReg, 0xF00F, 0x8000⟩,
   ⟨.or, 0xF00F, 0x8001⟩, ⟨.and, 0xF00F, 0x8002⟩, ⟨.xor, 0xF00F, 0x8003⟩] ++
  [⟨.addReg, 0xF00F, 0x8004⟩, ⟨.sub, 0xF00F, 0x8005⟩, ⟨.shr, 0xF00F, 0x8006⟩,
   ⟨.subn, 0xF00F, 0x8007⟩, ⟨.shl, 0xF00F, 0x800E⟩, ⟨.sneReg, 0xF00F, 0x9000⟩,
   ⟨.ldI, 0xF000, 0xA000⟩, ⟨.jpV0, 0xF000, 0xB000⟩, ⟨.rnd, 0xF000, 0xC000⟩,
   ⟨.drw, 0xF000, 0xD000⟩, ⟨.skp, 0xF0FF, 0xE09E⟩, ⟨.sknp, 0xF0FF, 0xE0A1⟩] ++
  [⟨.ldVxDt, 0xF0FF, 0xF007⟩, ⟨.ldVxK, 0xF0FF, 0xF00A⟩, ⟨.ldDtVx, 0xF0FF, 0xF015⟩,
   ⟨.addI, 0xF0FF, 0xF01E⟩, ⟨.ldF, 0xF0FF, 0xF029⟩, ⟨.ldB, 0xF0FF, 0xF033⟩,
   ⟨.ldMemVx, 0xF0FF, 0xF055⟩, ⟨.ldVxMem, 0xF0FF, 0xF065⟩]

/-- A word selects a row when its masked bits are the row's pattern (R73). -/
def OpcodeRow.selects (r : OpcodeRow) (op : Word) : Bool := op &&& r.mask == r.pattern

/-- The operation of the first row a word selects; the catch-all row when it selects none (R74). -/
def selectOp (op : Word) : Op :=
  match opcodeTable.find? (·.selects op) with
  | some r => r.op
  | none => .unrecognized

/-! ### The host's numbering of an instruction's bits -/

/-- The word of an instruction whose bits are `w` numbered as the opcode table numbers them:
one 16-bit word, bit 0 its least significant, the bits above `nbits` zero. -/
def tableWord (nbits w : Nat) : Word := BitVec.ofNat 16 (w % 2 ^ nbits)

/-- What the decoder reads from the bytes of a table word as the hardware stores them (big-endian, R52). -/
def decodeTableWord (nbits w : Nat) : Option Instr :=
  match decode (bytesOfWord (tableWord nbits w)) with
  | .ok (i, _) => some i
  | .error _ => none

end Sys2Proof
end

