-- ==== Sys2Proof/Config.lean ====
section
/-! DEFINITION. What is fixed for the machine (R4), the three session options (R5), and the free random byte (R195). -/

namespace Sys2Proof

/-- The three configuration booleans, fixed for a whole session by `RESET` and independent of each other (R5, R34). -/
structure Cfg where
  /-- SHR and SHL read `V[Y]` when true, `V[X]` when false. -/
  legacyShiftSource : Bool
  /-- OR, AND and XOR write 0 to `V[15]` after their result when true. -/
  legacyBitwiseClearsFlag : Bool
  /-- LD_MEM_VX and LD_VX_MEM add the transfer count to `I` when true. -/
  legacyIndexIncrementOnBulkTransfer : Bool
  deriving DecidableEq, Repr

namespace Config

/-- `MEM_SIZE`: 4096 bytes, addresses 0 to 4095 (R4). -/
abbrev memSize : Nat := 4096

/-- `PROG_BASE`: the program image is loaded at 0x200 (R4). -/
abbrev progBase : Nat := 0x200

/-- `IMAGE_MAX`: the longest accepted image, 4096 - 512 bytes (R4, R261). -/
abbrev imageMax : Nat := 3584

/-- `STACK_CAP`: 12 return addresses (R4, R26). -/
abbrev stackCap : Nat := 12

/-- The random byte the host supplies, a FREE VALUE: nothing constrains it (R195, R99, D25).
It is applied to the counter `State.draw`, which RND reads and advances, so each use is a fresh byte
(DESIGN CHOICE, safe for statements about one run; log entry 1). -/
opaque rnd : Nat → Byte

end Config

end Sys2Proof
end

