-- ==== Sys2Proof/Machine/Defaults.lean ====
section
/-! DEFINITION. The documented defaults of the spec's two open parameters: cfg (R5, D7) and FONT (R57, D19). -/

namespace Sys2Proof.Machine

/-- The documented default configuration: all three options legacy (R5, D7).
DESIGN CHOICE (log entry 7): `State.reset` is `RESET` with this `cfg`; `resetWith` takes any. -/
def defaultCfg : Cfg := ⟨true, true, true⟩

/-- The default of the parameter FONT (R57, D19), 16 glyphs of 5 bytes, glyph of digit `d` at `5 * d`.
UNVERIFIED, unsafe (log entry 8): the spec takes the 80 values from general knowledge. -/
def defaultFont : Vector Byte 80 :=
  #v[0xF0, 0x90, 0x90, 0x90, 0xF0, 0x20, 0x60, 0x20, 0x20, 0x70,
     0xF0, 0x10, 0xF0, 0x80, 0xF0, 0xF0, 0x10, 0xF0, 0x10, 0xF0,
     0x90, 0x90, 0xF0, 0x10, 0x10, 0xF0, 0x80, 0xF0, 0x10, 0xF0,
     0xF0, 0x80, 0xF0, 0x90, 0xF0, 0xF0, 0x10, 0x20, 0x40, 0x40,
     0xF0, 0x90, 0xF0, 0x90, 0xF0, 0xF0, 0x90, 0xF0, 0x10, 0xF0,
     0xF0, 0x90, 0xF0, 0x90, 0x90, 0xE0, 0x90, 0xE0, 0x90, 0xE0,
     0xF0, 0x80, 0x80, 0x80, 0xF0, 0xE0, 0x90, 0x90, 0x90, 0xE0,
     0xF0, 0x80, 0xF0, 0x80, 0xF0, 0xF0, 0x80, 0xF0, 0x80, 0x80]

end Sys2Proof.Machine
end

