-- ==== Sys2Proof/Machine/HostAction.lean ====
section
/-! DEFINITION. The host's side as data: the input latch, the run state, the transactions of R3, and the order they come in (R3, R233). -/

namespace Sys2Proof.Machine

/-- The input latch: `true` is pressed (R30). -/
abbrev KeyLatch := Vector Bool 16

/-- `run_state` (R32, R241). -/
inductive RunState where
  | running
  | paused
  | halted
  deriving DecidableEq, Repr

/-- The state-changing transactions of R3 as data: what the host may do next.
The reads (`readFb`, `readDt`, `readStatus`) change nothing and are functions of the state. -/
inductive HostAction where
  /-- `STEP(rnd)`: one invocation of the engine (R90); the byte is `Config.rnd`, drawn where RND uses it. -/
  | step
  /-- `TICK` (R233). -/
  | tick
  /-- `SET_KEYS(latch)` (R236). -/
  | setKeys (latch : KeyLatch)
  /-- `SET_RUN_STATE(r)` (R241). -/
  | setRunState (r : RunState)
  /-- `RESET(image, cfg)` (R260). -/
  | reset (image : List Byte) (cfg : Cfg)
  deriving DecidableEq, Repr, Inhabited

/-- What the host does when its agenda is empty (R3, R233: any order, any rate).
DESIGN CHOICE (log entry 2): the spec leaves the order of the transactions to the host. -/
inductive HostPlan where
  /-- It invokes `STEP` for ever. -/
  | stepping
  /-- It goes round one list of transactions for ever: `first`, then `rest`. -/
  | repeating (first : HostAction) (rest : List HostAction)
  /-- It does anything: from the `n`th of its free choices on. -/
  | free (n : Nat)
  deriving DecidableEq, Repr

end Sys2Proof.Machine

namespace Sys2Proof

/-- The `n`th transaction a host with a free plan invokes, a FREE VALUE: nothing constrains it, so that any
interleaving without end is one of its sequences (R3, R233, U6; log entry 2). -/
opaque Config.hostChoice : Nat → Machine.HostAction

end Sys2Proof
end

