-- ==== Sys2Proof/Machine/State.lean ====
section
/-! DEFINITION. The machine state as plain data (R20 to R34), and the state after reset (R263). -/

namespace Sys2Proof.Machine

/-- Memory as its listed bytes, sorted by address; an unlisted address reads as its reset content
(`Memory.background`, R56). -/
abbrev Memory := List Host.Cell

/-- `fb[y][x]`: 32 rows of 64 one-bit cells, row 0 and column 0 first; `true` is on (R29). -/
abbrev Framebuffer := Vector (Vector Bool 64) 32

/-- The fault register (R33, R220). -/
inductive FaultCause where
  /-- No fault recorded. -/
  | none
  /-- Recorded by CALL with `sp = 12` (R221). -/
  | stackOverflow
  /-- Recorded by RET with `sp = 0` (R222). -/
  | stackUnderflow
  /-- Recorded by DRW, LD_B, LD_MEM_VX and LD_VX_MEM out of range (R223). -/
  | memoryAccessOutOfBounds
  deriving DecidableEq, Repr

/-- The machine state: R20 to R34, the constant FONT, and three fields of the model's own (`draw`, `agenda`, `plan`). -/
structure State where
  /-- `memory` (R20). -/
  mem : Memory
  /-- `V[0]` to `V[15]`; `V[15]` is VF (R21, R22). -/
  v : Vector Byte 16
  /-- The index register `I` (R23). -/
  i : Word
  /-- The program counter, below 4096 in every reachable state (R24, R25). -/
  pc : Word
  /-- The 12 entries of the call stack (R26). -/
  stack : Vector Word 12
  /-- The stack depth, 0 to 12 (R27). -/
  sp : Fin 13
  /-- The delay timer (R28). -/
  dt : Byte
  /-- The framebuffer (R29). -/
  fb : Framebuffer
  /-- The input latch (R30). -/
  key : KeyLatch
  /-- `await_valid` (R31). -/
  awaitValid : Bool
  /-- `await_key` (R31). -/
  awaitKey : Key
  /-- `run_state` (R32). -/
  runState : RunState
  /-- The fault register (R33). -/
  fault : FaultCause
  /-- The configuration of the session (R34). -/
  cfg : Cfg
  /-- The machine's constant `FONT` (R57, D19), which every `RESET` copies into memory (R262) and nothing changes.
  Not state of the spec (R36): the parameter is held here so that it may be any table (log entry 8). -/
  font : Vector Byte 80
  /-- The MODEL's own: how many random bytes RND has used (log entry 1). -/
  draw : Nat
  /-- The MODEL's own: the host's next transactions, in order (log entry 2). -/
  agenda : List HostAction
  /-- The MODEL's own: what the host does when the agenda is empty (log entry 2). -/
  plan : HostPlan
  deriving DecidableEq, Repr

/-- How a step of the model stops with a fault. The engine's own faults (R220) do not stop it: they are
recorded in `State.fault` and the step answers that state (R227). -/
inductive Fault where
  /-- Raised by the host's `RESET` with an image longer than 3584 bytes: no machine state is produced (R224, R261).
  Safe: no run goes on from it. -/
  | imageTooLarge
  deriving DecidableEq, Repr

/-- Why an instruction has no meaning. -/
inductive Refusal where
  /-- An instruction not modelled, by its mnemonic: raised by no instruction of this model. Safe. -/
  | notModelled (mnemonic : String)
  deriving DecidableEq, Repr

/-- The machine right after `RESET` with an empty image, the default FONT and the default `cfg` (R263):
memory at its reset content, registers 0, `pc` 0x200, stack empty, framebuffer off, keys released, Running, no fault.
The zeros the source does not list are the spec's decision D16 (UNVERIFIED, unsafe; log entry 6);
`cfg` and `font` are the documented defaults (log entries 7 and 8);
`draw`, `agenda` and `plan` are DESIGN CHOICE (log entries 1 and 2). -/
def State.reset : State where
  mem := []
  v := Vector.replicate 16 0
  i := 0
  pc := 0x200
  stack := Vector.replicate 12 0
  sp := 0
  dt := 0
  fb := Vector.replicate 32 (Vector.replicate 64 false)
  key := Vector.replicate 16 false
  awaitValid := false
  awaitKey := 0
  runState := .running
  fault := .none
  cfg := defaultCfg
  font := defaultFont
  draw := 0
  agenda := []
  plan := .stepping

end Sys2Proof.Machine
end

