-- ==== Sys2Proof/Machine/Memory.lean ====
section
/-! DEFINITION. The 4096 bytes of memory: one read of a byte, one write of a byte, and the sequences built from them (R20, R53, R55, R56). -/

namespace Sys2Proof.Machine

/-- What an address reads as when memory does not list it: its content after `RESET` with an empty image and
the default FONT (R56, R262; log entry 8). -/
def Memory.background (a : Nat) : Byte :=
  if h : a < 80 then defaultFont[a] else 0

/-- The byte at an address (`MemRead(a, 1)`). -/
def Memory.read : Memory → Nat → Byte
  | [], a => Memory.background a
  | (k, b) :: m, a => if k = a then b else Memory.read m a

/-- A listed byte put before the first larger address. -/
def Memory.insert : Memory → Nat → Byte → Memory
  | [], a, b => [(a, b)]
  | (k, c) :: m, a, b => if a < k then (a, b) :: (k, c) :: m else (k, c) :: Memory.insert m a b

/-- A byte written (`MemWrite(a, 1, b)`): exactly the addressed byte changes (R55).
The entry is removed when `b` is what an unlisted address reads as, so equal memories are equal lists.
An address above 4095 does not exist and nothing is written; every caller has checked its range first (R60). -/
def Memory.write (m : Memory) (a : Nat) (b : Byte) : Memory :=
  if a < Config.memSize then
    let rest := m.filter fun c => c.1 != a
    if b = Memory.background a then rest else Memory.insert rest a b
  else m

/-- Bytes written at ascending addresses, the first at `a` (R53). -/
def Memory.writeBytes (m : Memory) (a : Nat) : List Byte → Memory
  | [] => m
  | b :: bs => Memory.writeBytes (m.write a b) (a + 1) bs

/-- The canonical form: addresses strictly rising, every address below 4096, no entry equal to what an
unlisted address reads as. -/
abbrev Memory.wf (m : Memory) : Prop :=
  m.Pairwise (fun c d => c.1 < d.1) ∧ ∀ c ∈ m, c.1 < Config.memSize ∧ c.2 ≠ Memory.background c.1

end Sys2Proof.Machine
end

