-- ==== Sys2Proof/Machine/Ops.lean ====
section
/-! DEFINITION. The named operations every meaning is written with: reads and writes of registers and memory, the advance of pc, the call stack, taking a fault, the range check, and the fetch of an instruction. -/

namespace Sys2Proof.Machine

/-! ### General registers, VF, I (R21 to R23) -/

/-- `V[x]`. -/
def State.getV (s : State) (x : Reg) : Byte := s.v[x]

/-- `V[x] <- b`. -/
def State.setV (s : State) (x : Reg) (b : Byte) : State := { s with v := s.v.set x b }

/-- `V[15] <- b`: the flag register, overwritten whole (R22, R142). -/
def State.setVF (s : State) (b : Byte) : State := s.setV 15 b

/-- All 16 registers at once, for the bulk load (R165). -/
def State.setAllV (s : State) (v : Vector Byte 16) : State := { s with v := v }

/-- `I <- n`, a 16-bit register: `n` modulo 65536, never modulo 4096 (R23, C2). -/
def State.setI (s : State) (n : Nat) : State := { s with i := BitVec.ofNat 16 n }

/-! ### The program counter (R24, R25, R92) -/

/-- `pc <- n`: every write of `pc` is reduced modulo 4096 (R25). -/
def State.setPc (s : State) (n : Nat) : State := { s with pc := BitVec.ofNat 16 (n % Config.memSize) }

/-- The advance by one instruction: `pc <- (pc + 2) mod 4096` (R92). A taken skip is a second advance (R113). -/
def State.advance (s : State) : State := s.setPc (s.pc.toNat + 2)

/-! ### The call stack (R26, R27) -/

/-- `stack[sp] <- w; sp <- sp + 1`, with room for it. -/
def State.push (s : State) (h : s.sp.val < Config.stackCap) (w : Word) : State :=
  { s with stack := s.stack.set s.sp.val w h, sp := ⟨s.sp.val + 1, by have := h; simp only [Config.stackCap] at this; omega⟩ }

/-- The most recent entry, `stack[sp - 1]`, of a stack that is not empty. -/
def State.top (s : State) (h : 0 < s.sp.val) : Word :=
  s.stack[s.sp.val - 1]'(by have := s.sp.isLt; omega)

/-- `sp <- sp - 1`; the entry stays in the array above the new `sp` (R27, R110). -/
def State.drop (s : State) (h : 0 < s.sp.val) : State :=
  { s with sp := ⟨s.sp.val - 1, by have := s.sp.isLt; have := h; omega⟩ }

/-! ### Memory, timer, framebuffer, latch, await-key fields, control state -/

/-- Bytes written to memory from `a` upward (R53). -/
def State.writeBytes (s : State) (a : Nat) (bs : List Byte) : State := { s with mem := s.mem.writeBytes a bs }

/-- `dt <- b` (R28). -/
def State.setDt (s : State) (b : Byte) : State := { s with dt := b }

/-- The framebuffer replaced (R65). -/
def State.setFb (s : State) (fb : Framebuffer) : State := { s with fb := fb }

/-- `key[k]` (R30). -/
def State.keyDown (s : State) (k : Key) : Bool := s.key[k]

/-- The input latch replaced (R236). -/
def State.setKey (s : State) (latch : KeyLatch) : State := { s with key := latch }

/-- `await_key <- k; await_valid <- 1` (R194). -/
def State.beginAwait (s : State) (k : Key) : State := { s with awaitValid := true, awaitKey := k }

/-- `await_valid <- 0`; `await_key` keeps its value (R194, R31). -/
def State.endAwait (s : State) : State := { s with awaitValid := false }

/-- `run_state <- r` (R32). -/
def State.putRunState (s : State) (r : RunState) : State := { s with runState := r }

/-- One more random byte used (log entry 1). -/
def State.nextDraw (s : State) : State := { s with draw := s.draw + 1 }

/-- What is left of the host's agenda (log entry 2). -/
def State.setAgenda (s : State) (acts : List HostAction) : State := { s with agenda := acts }

/-- What the host does once its agenda is empty (log entry 2). -/
def State.setPlan (s : State) (p : HostPlan) : State := { s with plan := p }

/-! ### Taking a fault (R227) and the range check (R60)

There is no return from a fault: no instruction clears the fault register, only `RESET` does (R229). -/

/-- The state after a fault: the state before the step with the single change `fault <- c` (R227, R96). -/
def State.recordFault (s : State) (c : FaultCause) : State := { s with fault := c }

/-- Taking a fault: no write of the instruction, not even the advance, takes effect (R96, R227).
The recorded fault is a next state, in which every further `STEP` is refused (log entry 3). -/
def takeFault (c : FaultCause) (s : State) : Host.Outcome State Fault Refusal := .next (s.recordFault c)

/-- `CheckRange(base, count)` fails: the range is not empty and passes address 4095, without wrap-around (R60). -/
abbrev outOfRange (base count : Nat) : Prop := 1 ≤ count ∧ 4095 < base + count - 1

/-- An index-relative access to `count` bytes from `I`: checked once over the whole range before any other
effect; out of range it faults, else it ends in the state `t` (R60). -/
def checkRange (s : State) (count : Nat) (t : State) : Host.Outcome State Fault Refusal :=
  if outOfRange s.i.toNat count then takeFault .memoryAccessOutOfBounds s else .next t

/-! ### The common ends of an instruction -/

/-- Only the advance. -/
def finish (s : State) : Host.Outcome State Fault Refusal := .next s.advance

/-- A result to `V[x]`, and the advance. -/
def writeResult (s : State) (x : Reg) (r : Byte) : Host.Outcome State Fault Refusal := .next (s.setV x r).advance

/-- A result to `V[x]`, then the flag to `V[15]`, last, and the advance (R95). -/
def writeResultFlag (s : State) (x : Reg) (r flag : Byte) : Host.Outcome State Fault Refusal :=
  .next ((s.setV x r).setVF flag).advance

/-- A skip: one advance, and a second when the condition holds; nothing but `pc` changes (R113, R118). -/
def skipIf (s : State) (c : Bool) : Host.Outcome State Fault Refusal :=
  .next (if c then s.advance.advance else s.advance)

/-! ### Instruction fetch (R91, R52, R59) -/

/-- The fetch address: the low 12 bits of `pc`, whose upper four bits always read 0 (R25; log entry 11). -/
def State.fetchAddr (s : State) : Nat := s.pc.toNat % Config.memSize

/-- The address of the second byte: it wraps at the top of memory (R59). -/
def State.fetchAddr2 (s : State) : Nat := (s.pc.toNat + 1) % Config.memSize

/-- The two bytes the engine fetches, in address order (R91). -/
def State.fetchBytes (s : State) : List Byte := [s.mem.read s.fetchAddr, s.mem.read s.fetchAddr2]

/-- A word stored where the engine fetches its next instruction, big-endian (R52). -/
def State.storeFetchWord (s : State) (op : Word) : State :=
  (s.writeBytes s.fetchAddr [op.extractLsb' 8 8]).writeBytes s.fetchAddr2 [op.extractLsb' 0 8]

end Sys2Proof.Machine
end

