-- ==== Sys2Proof/Machine/Operands.lean ====
section
/-! DEFINITION. Operand forms: the shift source, the key an operand names, the lowest pressed key, decimal digits, the register group of a bulk transfer, sprite coordinates and sprite bits. -/

namespace Sys2Proof.Machine

/-- The source of SHR and SHL: `V[Y]` in the legacy setting, else `V[X]` (R138, R140). -/
def State.shiftSource (s : State) (x y : Reg) : Byte :=
  if s.cfg.legacyShiftSource then s.getV y else s.getV x

/-- The key a register names: its low 4 bits (R190). -/
def State.keyOperand (s : State) (x : Reg) : Key := ((s.getV x).extractLsb' 0 4).toFin

/-- The least pressed key of a latch, if any is pressed (R194). -/
def lowestKey (latch : KeyLatch) : Option Key := (List.finRange 16).find? fun k => latch[k]

/-- Hundreds, tens and ones of a byte (R163). -/
def bcdDigits (b : Byte) : List Byte :=
  [BitVec.ofNat 8 (b.toNat / 100), BitVec.ofNat 8 (b.toNat / 10 % 10), BitVec.ofNat 8 (b.toNat % 10)]

/-- `X + 1`: the number of bytes of a bulk transfer (R164, R165). -/
def transferCount (x : Reg) : Nat := x.val + 1

/-- `V[0]` to `V[X]` in order (R164). -/
def State.firstRegs (s : State) (x : Reg) : List Byte := s.v.toList.take (transferCount x)

/-- The registers after `V[0]` to `V[X]` are loaded from `memory[I]` upward; the others keep their values (R165). -/
def State.loadedRegs (s : State) (x : Reg) : Vector Byte 16 :=
  Vector.ofFn fun j : Fin 16 => if j ≤ x then s.mem.read (s.i.toNat + j.val) else s.v[j]

/-- The index register after a bulk transfer: advanced by the count in the legacy setting only (R164, R165). -/
def State.bulkIndex (s : State) (x : Reg) : State :=
  if s.cfg.legacyIndexIncrementOnBulkTransfer then s.setI (s.i.toNat + transferCount x) else s

/-- `x0 = V[X] mod 64`: the start column wraps (R181). -/
def State.spriteColumn (s : State) (x : Reg) : Nat := (s.getV x).toNat % 64

/-- `y0 = V[Y] mod 32`: the start row wraps (R181). -/
def State.spriteTop (s : State) (y : Reg) : Nat := (s.getV y).toNat % 32

/-- The bit a sprite byte drawn from column `x0` puts on column `x`: bit 7 leftmost, nothing outside the
8 columns (R181, D18; UNVERIFIED, unsafe: the bit order is general knowledge, log entry 9). -/
def spriteBit (b : Byte) (x0 x : Nat) : Bool :=
  decide (x0 ≤ x) && decide (x < x0 + 8) && b.getLsbD (7 - (x - x0))

/-- The sprite byte drawn on row `y`, if the sprite of `n` rows from row `y0` covers it: row `r` is
`memory[I + r]` (R181). Rows below the bottom edge are not rows of the framebuffer and are never asked for. -/
def State.spriteByte (s : State) (y0 n y : Nat) : Option Byte :=
  if y0 ≤ y ∧ y < y0 + n then some (s.mem.read (s.i.toNat + (y - y0))) else none

end Sys2Proof.Machine
end

