-- ==== Sys2Proof/Machine/Alu.lean ====
section
/-! DEFINITION. The register load and arithmetic-logic instructions (R130 to R142). Reads come before writes; the flag is written last (R95). -/

namespace Sys2Proof.Machine

/-- A bitwise result to `V[x]`, then VF cleared in the legacy setting only (R133). -/
def writeBitwise (s : State) (x : Reg) (r : Byte) : Host.Outcome State Fault Refusal :=
  if s.cfg.legacyBitwiseClearsFlag then writeResultFlag s x r 0 else writeResult s x r

/-- LD_IMM (R130): `V[X] <- NN`. -/
def execLdImm (x : Reg) (nn : Byte) (s : State) : Host.Outcome State Fault Refusal := writeResult s x nn

/-- ADD_IMM (R131): `V[X] <- (V[X] + NN) mod 256`, no flag. -/
def execAddImm (x : Reg) (nn : Byte) (s : State) : Host.Outcome State Fault Refusal :=
  writeResult s x (sum8 (s.getV x) nn)

/-- LD_REG (R132): `V[X] <- V[Y]`. -/
def execLdReg (x y : Reg) (s : State) : Host.Outcome State Fault Refusal := writeResult s x (s.getV y)

/-- OR (R133). -/
def execOr (x y : Reg) (s : State) : Host.Outcome State Fault Refusal :=
  writeBitwise s x (s.getV x ||| s.getV y)

/-- AND (R134). -/
def execAnd (x y : Reg) (s : State) : Host.Outcome State Fault Refusal :=
  writeBitwise s x (s.getV x &&& s.getV y)

/-- XOR (R135). -/
def execXor (x y : Reg) (s : State) : Host.Outcome State Fault Refusal :=
  writeBitwise s x (s.getV x ^^^ s.getV y)

/-- ADD_REG (R136): the sum modulo 256; VF is the carry. -/
def execAddReg (x y : Reg) (s : State) : Host.Outcome State Fault Refusal :=
  writeResultFlag s x (sum8 (s.getV x) (s.getV y)) (carry (s.getV x) (s.getV y))

/-- SUB (R137): `V[X] - V[Y]` modulo 256; VF is the not-borrow. -/
def execSub (x y : Reg) (s : State) : Host.Outcome State Fault Refusal :=
  writeResultFlag s x (diff8 (s.getV x) (s.getV y)) (noBorrow (s.getV x) (s.getV y))

/-- SHR (R138): the source halved; VF is the bit shifted out. -/
def execShr (x y : Reg) (s : State) : Host.Outcome State Fault Refusal :=
  writeResultFlag s x (half8 (s.shiftSource x y)) (lowBit (s.shiftSource x y))

/-- SUBN (R139): `V[Y] - V[X]` modulo 256; VF is the not-borrow. -/
def execSubn (x y : Reg) (s : State) : Host.Outcome State Fault Refusal :=
  writeResultFlag s x (diff8 (s.getV y) (s.getV x)) (noBorrow (s.getV y) (s.getV x))

/-- SHL (R140): the source doubled modulo 256; VF is the bit shifted out. -/
def execShl (x y : Reg) (s : State) : Host.Outcome State Fault Refusal :=
  writeResultFlag s x (double8 (s.shiftSource x y)) (highBit (s.shiftSource x y))

end Sys2Proof.Machine
end

