-- ==== Sys2Proof/Machine/ControlFlow.lean ====
section
/-! DEFINITION. The control transfer instructions RET, JP, CALL, SE_IMM, SNE_IMM, SE_REG, SNE_REG, JP_V0 (R110 to R119). -/

namespace Sys2Proof.Machine

/-- RET (R110): StackUnderflow on an empty stack, else `sp <- sp - 1; pc <- stack[sp]`. -/
def execRet (s : State) : Host.Outcome State Fault Refusal :=
  if h : 0 < s.sp.val then .next ((s.drop h).setPc (s.top h).toNat)
  else takeFault .stackUnderflow s

/-- JP (R111): `pc <- NNN`. -/
def execJp (nnn : Addr) (s : State) : Host.Outcome State Fault Refusal := .next (s.setPc nnn.toNat)

/-- CALL (R112): StackOverflow on a full stack, else the advanced `pc` is pushed and `pc <- NNN`. -/
def execCall (nnn : Addr) (s : State) : Host.Outcome State Fault Refusal :=
  if h : s.sp.val < Config.stackCap then .next ((s.push h s.advance.pc).setPc nnn.toNat)
  else takeFault .stackOverflow s

/-- SE_IMM (R113): skip if `V[X] = NN`. -/
def execSeImm (x : Reg) (nn : Byte) (s : State) : Host.Outcome State Fault Refusal :=
  skipIf s (s.getV x == nn)

/-- SNE_IMM (R114): skip if `V[X]` differs from `NN`. -/
def execSneImm (x : Reg) (nn : Byte) (s : State) : Host.Outcome State Fault Refusal :=
  skipIf s (s.getV x != nn)

/-- SE_REG (R115): skip if `V[X] = V[Y]`. -/
def execSeReg (x y : Reg) (s : State) : Host.Outcome State Fault Refusal :=
  skipIf s (s.getV x == s.getV y)

/-- SNE_REG (R116): skip if `V[X]` differs from `V[Y]`. -/
def execSneReg (x y : Reg) (s : State) : Host.Outcome State Fault Refusal :=
  skipIf s (s.getV x != s.getV y)

/-- JP_V0 (R117): `pc <- (V[0] + NNN) mod 4096`. -/
def execJpV0 (nnn : Addr) (s : State) : Host.Outcome State Fault Refusal :=
  .next (s.setPc ((s.getV 0).toNat + nnn.toNat))

end Sys2Proof.Machine
end

