-- ==== Sys2Proof/Machine/Display.lean ====
section
/-! DEFINITION. The display instructions CLS and DRW, the only writers of the framebuffer (R65, R180, R181). -/

namespace Sys2Proof.Machine

/-- Every cell off (R180). -/
def blankFb : Framebuffer := Vector.replicate 32 (Vector.replicate 64 false)

/-- The framebuffer after a sprite of `n` rows at `(x0, y0)`: a sprite bit of 1 inverts the cell it lands on,
every other cell stays; columns from 64 and rows from 32 on are clipped (R181). -/
def State.drawnFb (s : State) (x0 y0 n : Nat) : Framebuffer :=
  Vector.ofFn fun y : Fin 32 =>
    match s.spriteByte y0 n y.val with
    | none => s.fb[y]
    | some b => Vector.ofFn fun x : Fin 64 => s.fb[y][x] ^^ spriteBit b x0 x.val

/-- The collision: some cell that was on is turned off (R181). -/
def State.drawHit (s : State) (x0 y0 n : Nat) : Bool :=
  (List.finRange 32).any fun y =>
    match s.spriteByte y0 n y.val with
    | none => false
    | some b => (List.finRange 64).any fun x => s.fb[y][x] && spriteBit b x0 x.val

/-- CLS (R180): every framebuffer cell off. -/
def execCls (s : State) : Host.Outcome State Fault Refusal := .next (s.setFb blankFb).advance

/-- DRW (R181): the range of all `n` rows is checked first, clipped rows included (D12); the coordinates are the
old register values even when `x` or `y` is 15; then the framebuffer, then VF is the collision. -/
def execDrw (x y : Reg) (n : Nibble) (s : State) : Host.Outcome State Fault Refusal :=
  let x0 := s.spriteColumn x
  let y0 := s.spriteTop y
  checkRange s n.toNat
    ((s.setFb (s.drawnFb x0 y0 n.toNat)).setVF (flagByte (s.drawHit x0 y0 n.toNat))).advance

end Sys2Proof.Machine
end

