-- ==== Sys2Proof/Machine/IndexMemory.lean ====
section
/-! DEFINITION. The index register and memory instructions LD_I, ADD_I, LD_F, LD_B, LD_MEM_VX, LD_VX_MEM (R160 to R165). -/

namespace Sys2Proof.Machine

/-- LD_I (R160): `I <- NNN`. -/
def execLdI (nnn : Addr) (s : State) : Host.Outcome State Fault Refusal := .next (s.setI nnn.toNat).advance

/-- ADD_I (R161): `I <- (I + V[X]) mod 65536`; no flag, no fault. -/
def execAddI (x : Reg) (s : State) : Host.Outcome State Fault Refusal :=
  .next (s.setI (s.i.toNat + (s.getV x).toNat)).advance

/-- LD_F (R162): `I <- 5 * V[X]`, the full byte, no masking. -/
def execLdF (x : Reg) (s : State) : Host.Outcome State Fault Refusal :=
  .next (s.setI (5 * (s.getV x).toNat)).advance

/-- LD_B (R163): hundreds, tens and ones of `V[X]` at `I`, `I + 1`, `I + 2`, range checked first. -/
def execLdB (x : Reg) (s : State) : Host.Outcome State Fault Refusal :=
  checkRange s 3 (s.writeBytes s.i.toNat (bcdDigits (s.getV x))).advance

/-- LD_MEM_VX (R164): `V[0]` to `V[X]` at `I` upward, range checked first; then the legacy increment of `I`. -/
def execLdMemVx (x : Reg) (s : State) : Host.Outcome State Fault Refusal :=
  checkRange s (transferCount x) ((s.writeBytes s.i.toNat (s.firstRegs x)).bulkIndex x).advance

/-- LD_VX_MEM (R165): `V[0]` to `V[X]` from `I` upward, range checked first; then the legacy increment of `I`. -/
def execLdVxMem (x : Reg) (s : State) : Host.Outcome State Fault Refusal :=
  checkRange s (transferCount x) ((s.setAllV (s.loadedRegs x)).bulkIndex x).advance

end Sys2Proof.Machine
end

