-- ==== Sys2Proof/Machine/InputTimerRandom.lean ====
section
/-! DEFINITION. The key, timer and random instructions SKP, SKNP, LD_VX_DT, LD_DT_VX, LD_VX_K, RND (R190 to R195). -/

namespace Sys2Proof.Machine

/-- SKP (R190): skip if the key named by the low 4 bits of `V[X]` is pressed. -/
def execSkp (x : Reg) (s : State) : Host.Outcome State Fault Refusal := skipIf s (s.keyDown (s.keyOperand x))

/-- SKNP (R191): skip if that key is not pressed. -/
def execSknp (x : Reg) (s : State) : Host.Outcome State Fault Refusal := skipIf s (!s.keyDown (s.keyOperand x))

/-- LD_VX_DT (R192): `V[X] <- dt`. -/
def execLdVxDt (x : Reg) (s : State) : Host.Outcome State Fault Refusal := writeResult s x s.dt

/-- LD_DT_VX (R193): `dt <- V[X]`. -/
def execLdDtVx (x : Reg) (s : State) : Host.Outcome State Fault Refusal := .next (s.setDt (s.getV x)).advance

/-- LD_VX_K does not complete in this state: no candidate key is recorded, or the candidate is still held (R194). -/
def State.stillWaiting (s : State) : Bool := !s.awaitValid || s.keyDown s.awaitKey

/-- LD_VX_K (R194): with no candidate, record the least pressed key, if any, and re-execute (`pc` stays `pc0`);
with the candidate held, re-execute; with the candidate released, `V[X]` is its number, the candidate is cleared
and `pc` advances. -/
def execLdVxK (x : Reg) (s : State) : Host.Outcome State Fault Refusal :=
  if s.awaitValid then
    if s.keyDown s.awaitKey then .next s
    else .next (s.setV x (BitVec.ofNat 8 s.awaitKey.val)).endAwait.advance
  else
    match lowestKey s.key with
    | some k => .next (s.beginAwait k)
    | none => .next s

/-- RND (R195): `V[X] <- rnd AND NN`, with `rnd` the free byte (log entry 1). -/
def execRnd (x : Reg) (nn : Byte) (s : State) : Host.Outcome State Fault Refusal :=
  writeResult s.nextDraw x (Config.rnd s.draw &&& nn)

end Sys2Proof.Machine
end

