-- ==== Sys2Proof/Machine/Unrecognized.lean ====
section
/-! DEFINITION. The catch-all UNRECOGNIZED (R210, R211): a no-op that advances pc. -/

namespace Sys2Proof.Machine

/-- UNRECOGNIZED (R210): the advance is the whole effect; the word is only reported (R97). -/
def execUnrecognized (_op : Word) (s : State) : Host.Outcome State Fault Refusal := finish s

end Sys2Proof.Machine
end

