-- ==== Sys2Proof/Machine/HostPort.lean ====
section
/-! DEFINITION. The host's own transactions: TICK, SET_KEYS, SET_RUN_STATE, RESET and the read ports (R3, R66, R233, R234, R236, R241, R260 to R263). -/

namespace Sys2Proof.Machine

/-- `TICK` (R233): `if dt > 0 then dt <- dt - 1`, whatever `run_state` and `fault` are. -/
def tick (s : State) : State := s.setDt (BitVec.ofNat 8 (s.dt.toNat - 1))

/-- `SET_KEYS(latch)` (R236): all 16 flags replaced, in any run state. -/
def setKeys (latch : KeyLatch) (s : State) : State := s.setKey latch

/-- `SET_RUN_STATE(r)` (R241): `Halted` is absorbing; from `Running` and `Paused` every request is obeyed. -/
def setRunState (r : RunState) (s : State) : State :=
  match s.runState with
  | .halted => s
  | _ => s.putRunState r

/-- `RESET(image, cfg)` with the constant FONT as a parameter (R260 to R263): a function of its arguments alone.
Memory zeroed, font at 0, image at 0x200; an image longer than 3584 bytes gives `ImageTooLarge` and no state. -/
def resetWith (font : Vector Byte 80) (image : List Byte) (cfg : Cfg) : Host.Outcome State Fault Refusal :=
  if image.length ≤ Config.imageMax then
    .next { State.reset with
      mem := (Memory.writeBytes [] 0 font.toList).writeBytes Config.progBase image
      cfg := cfg
      font := font }
  else .fault .imageTooLarge

/-- `READ_FB(x, y)` (R66). -/
def readFb (x : Fin 64) (y : Fin 32) (s : State) : Bool := s.fb[y][x]

/-- `READ_DT` (R234). -/
def readDt (s : State) : Byte := s.dt

/-- `READ_STATUS` (R234): run state and fault register. -/
def readStatus (s : State) : RunState × FaultCause := (s.runState, s.fault)

/-- The numeric code of a run state (R32, D14). -/
def RunState.code : RunState → Nat
  | .running => 0
  | .paused => 1
  | .halted => 2

/-- The numeric code of a fault (R220, D14). -/
def FaultCause.code : FaultCause → Nat
  | .none => 0
  | .stackOverflow => 1
  | .stackUnderflow => 2
  | .memoryAccessOutOfBounds => 3

end Sys2Proof.Machine
end

