-- ==== Sys2Proof/Machine/Engine.lean ====
section
/-! DEFINITION. The transaction STEP (R90 to R99), its outcome (R97), and the next transaction of the machine (R3). -/

namespace Sys2Proof.Machine

/-- The gate of `STEP` (R90): it executes only while `run_state` is `Running` and no fault is recorded. -/
def State.gateOpen (s : State) : Bool := s.runState == .running && s.fault == .none

/-- The instruction at `pc` (R91, R93). -/
def State.fetched (s : State) : Instr :=
  match decode s.fetchBytes with
  | .ok (i, _) => i
  | .error .truncated => .unrecognized 0

/-- `STEP` (R90, R94): a refused step changes nothing; otherwise the instruction at `pc` executes.
That a refused step is a next state equal to `s` is a DESIGN CHOICE, safe (log entry 4); `stepOutcome` tells it apart. -/
def engineStep (s : State) : Host.Outcome State Fault Refusal :=
  if s.gateOpen then exec s.fetched s else .next s

/-- The five outcomes of a `STEP` (R97). -/
inductive StepOutcome where
  | refused
  | executed
  | executedUnrecognized (op : Word)
  | waiting
  | fault (cause : FaultCause)
  deriving DecidableEq, Repr

/-- The outcome of an instruction that ends in state `t` without a fault (R97). -/
def completedOutcome (s : State) : Instr → StepOutcome
  | .unrecognized op => .executedUnrecognized op
  | .ldVxK _ => if s.stillWaiting then .waiting else .executed
  | _ => .executed

/-- The outcome a `STEP` in state `s` returns to the host (R97); an output, not state (R36). -/
def stepOutcome (s : State) : StepOutcome :=
  if s.gateOpen then
    match exec s.fetched s with
    | .next t => if t.fault = .none then completedOutcome s s.fetched else .fault t.fault
    | _ => .refused
  else .refused

/-- One transaction of the host (R3). `RESET` builds a state from its arguments and the machine's constant `FONT`
alone (R260); the model's own `draw`, `agenda` and `plan` belong to the host and go on (log entry 12). -/
def transact (a : HostAction) (s : State) : Host.Outcome State Fault Refusal :=
  match a with
  | .step => engineStep s
  | .tick => .next (tick s)
  | .setKeys latch => .next (setKeys latch s)
  | .setRunState r => .next (setRunState r s)
  | .reset image cfg =>
    match resetWith s.font image cfg with
    | .next t => .next { t with draw := s.draw, agenda := s.agenda, plan := s.plan }
    | .fault e => .fault e
    | .refused e => .refused e

/-- The transaction that comes next, and the state with it taken from the host's side (R3; log entry 2):
the first of the agenda; with an empty agenda, what the plan says. -/
def State.nextAction (s : State) : HostAction × State :=
  match s.agenda with
  | a :: rest => (a, s.setAgenda rest)
  | [] =>
    match s.plan with
    | .stepping => (.step, s)
    | .repeating a rest => (a, s.setAgenda rest)
    | .free n => (Config.hostChoice n, s.setPlan (.free (n + 1)))

/-- The next transaction, performed (R3; log entry 2). -/
def nextTransaction (s : State) : Host.Outcome State Fault Refusal := transact s.nextAction.1 s.nextAction.2

/-- `s` with a word where the engine fetches next, and the gate open with no host transaction before it,
so that the next transaction is the `STEP` that runs the word (log entry 13). -/
def State.placeWord (s : State) (op : Word) : State :=
  ((((s.storeFetchWord op).putRunState .running).recordFault .none).setAgenda []).setPlan .stepping

end Sys2Proof.Machine
end

