-- ==== Sys2Proof/Machine/Step.lean ====
section
/-! DEFINITION. One step of the machine: its next transaction. -/

namespace Sys2Proof.Machine

/-- One step: the next transaction (R3). -/
def step (s : State) : Host.Outcome State Fault Refusal := nextTransaction s

/-- `s` with a table word placed where `step` fetches its next instruction (log entry 13). -/
def State.withFetchWord (s : State) (nbits w : Nat) : State := s.placeWord (tableWord nbits w)

end Sys2Proof.Machine
end

