-- ==== Sys2Proof/Safety.lean ====
section
/-! DEFINITION. The terms the claims are stated in: the invariant of R38, what a step of the engine is, and the pseudocode of R181 transcribed. -/

namespace Sys2Proof.Machine

/-- The invariants of R38 that the types do not already hold: `pc` below 4096, every valid stack entry below 4096,
and memory in its canonical form. -/
def State.Inv (s : State) : Prop :=
  s.pc.toNat < 4096 ∧ (∀ j : Fin 12, j.val < s.sp.val → s.stack[j].toNat < 4096) ∧ s.mem.wf

/-- The next transaction is a `STEP` that the gate lets through (R90): the host's agenda is empty and it only steps. -/
def State.Ready (s : State) : Prop :=
  s.agenda = [] ∧ s.plan = .stepping ∧ s.runState = .running ∧ s.fault = .none

/-- `(pc + k) mod 4096` (R24, R92). -/
def State.pcPlus (s : State) (k : Nat) : Word := BitVec.ofNat 16 ((s.pc.toNat + k) % 4096)

/-- The instructions that name register `r` as their explicit destination (R21, R79). -/
def writesReg (r : Reg) : Instr → Bool
  | .ldImm x _ | .addImm x _ | .ldReg x _ | .or x _ | .and x _ | .xor x _ | .addReg x _ | .sub x _
  | .shr x _ | .subn x _ | .shl x _ | .rnd x _ | .ldVxDt x | .ldVxK x => x == r
  | .ldVxMem x => decide (r ≤ x)
  | _ => false

/-- The instructions whose flag rule R22 lists, in a session with configuration `cfg`. -/
def writesFlag (cfg : Cfg) : Instr → Bool
  | .addReg _ _ | .sub _ _ | .shr _ _ | .subn _ _ | .shl _ _ | .drw _ _ _ => true
  | .or _ _ | .and _ _ | .xor _ _ => cfg.legacyBitwiseClearsFlag
  | _ => false

/-- The seven instructions whose effect depends on the configuration (R76). -/
def dependsOnCfg : Instr → Bool
  | .shr _ _ | .shl _ _ | .or _ _ | .and _ _ | .xor _ _ | .ldMemVx _ | .ldVxMem _ => true
  | _ => false

/-- The condition under which an instruction raises a fault, and the fault (R221, R222, R223). -/
def faultOf (s : State) : Instr → FaultCause
  | .call _ => if s.sp.val = 12 then .stackOverflow else .none
  | .ret => if s.sp.val = 0 then .stackUnderflow else .none
  | .drw _ _ n => if 1 ≤ n.toNat ∧ 4095 < s.i.toNat + n.toNat - 1 then .memoryAccessOutOfBounds else .none
  | .ldB _ => if 4095 < s.i.toNat + 2 then .memoryAccessOutOfBounds else .none
  | .ldMemVx x | .ldVxMem x => if 4095 < s.i.toNat + x.val then .memoryAccessOutOfBounds else .none
  | _ => .none

/-- Calls of these addresses in a row, stopping where one does not answer a next state (R221). -/
def nestedCalls : List Addr → State → Host.Outcome State Fault Refusal
  | [], s => .next s
  | nnn :: rest, s =>
    match exec (.call nnn) s with
    | .next t => nestedCalls rest t
    | o => o

/-- These transactions in order, stopping where one does not answer a next state (R3). -/
def transactAll : List HostAction → State → Host.Outcome State Fault Refusal
  | [], s => .next s
  | a :: rest, s =>
    match transact a s with
    | .next t => transactAll rest t
    | o => o

/-- The bit of the sprite of `n` rows at `(x0, y0)` that falls on cell `(x, y)`: row `r` is `memory[I + r]`,
bit `7 - c` is column `c` (R181). -/
def State.spritePixel (s : State) (x0 y0 n x y : Nat) : Bool :=
  decide (x0 ≤ x ∧ x < x0 + 8 ∧ y0 ≤ y ∧ y < y0 + n) &&
    (s.mem.read (s.i.toNat + (y - y0))).getLsbD (7 - (x - x0))

/-! ### The pseudocode of DRW (R181), transcribed

The column loop over `c`, the row loop over `r`, each stopping at the screen's edge. -/

/-- `fb[y][x]`, off outside the screen. -/
def cellAt (fb : Framebuffer) (x y : Nat) : Bool :=
  if h : y < 32 ∧ x < 64 then fb[y][x] else false

/-- `fb[y][x] <- b`. -/
def setCell (fb : Framebuffer) (x y : Nat) (b : Bool) : Framebuffer :=
  if h : y < 32 ∧ x < 64 then fb.set y (fb[y].set x b) else fb

/-- `for c in cs`: one row of the sprite, the byte `b` from column `x0` of row `y`. -/
def drwColumns (b : Byte) (x0 y : Nat) : List Nat → Framebuffer × Bool → Framebuffer × Bool
  | [], p => p
  | c :: cs, p =>
    if 64 ≤ x0 + c then p
    else
      let bit := b.getLsbD (7 - c)
      let on := cellAt p.1 (x0 + c) y
      drwColumns b x0 y cs (setCell p.1 (x0 + c) y (on ^^ bit), p.2 || (bit && on))

/-- `for r in rs`: the rows of the sprite at `base` drawn from `(x0, y0)`. -/
def drwRows (m : Memory) (base x0 y0 : Nat) : List Nat → Framebuffer × Bool → Framebuffer × Bool
  | [], p => p
  | r :: rs, p =>
    if 32 ≤ y0 + r then p
    else drwRows m base x0 y0 rs (drwColumns (m.read (base + r)) x0 (y0 + r) (List.range 8) p)

end Sys2Proof.Machine
end

