-- ==== Sys2Proof/Certificates/Slice0/Obligations.lean ====
section
/-! DEFINITION. The statements for the provers, from the numbered rules of spec/. -/

open Sys2Proof Sys2Proof.Machine

/-- RET pops the most recent return address, or records StackUnderflow (R110). The patterns are those of R73, general knowledge by its own mark (log entry 9). -/
def Obligations.RetPopsOrUnderflows : Prop :=
  decodeWord 0x00EE = .ret ∧
  (∀ s : State, s.sp.val = 0 → exec .ret s = .next { s with fault := .stackUnderflow }) ∧
  (∀ s : State, 0 < s.sp.val → ∃ t, exec .ret s = .next t ∧ t.sp.val = s.sp.val - 1 ∧
    (∀ w : Word, s.stack[s.sp.val - 1]? = some w → w.toNat < 4096 → t.pc = w) ∧
    t = { s with sp := t.sp, pc := t.pc }) ∧
  (∀ (nnn : Addr) (s : State), s.sp.val < 12 → ∃ t u, exec (.call nnn) s = .next t ∧
    exec .ret t = .next u ∧ u.pc = s.pcPlus 2 ∧ u.sp = s.sp)

/-- JP sets pc to the literal address (R111). The patterns are those of R73, general knowledge by its own mark (log entry 9). -/
def Obligations.JpSetsPc : Prop :=
  (∀ nnn : Addr, decodeWord (wordNNN 0x1 nnn) = .jp nnn) ∧
  (∀ (nnn : Addr) (s : State), exec (.jp nnn) s = .next { s with pc := nnn.setWidth 16 })

/-- CALL pushes the advanced pc and jumps, or records StackOverflow (R112). The patterns are those of R73, general knowledge by its own mark (log entry 9). -/
def Obligations.CallPushesOrOverflows : Prop :=
  (∀ nnn : Addr, decodeWord (wordNNN 0x2 nnn) = .call nnn) ∧
  (∀ (nnn : Addr) (s : State), s.sp.val = 12 → exec (.call nnn) s = .next { s with fault := .stackOverflow }) ∧
  (∀ (nnn : Addr) (s : State) (h : s.sp.val < 12), ∃ t, exec (.call nnn) s = .next t ∧
    t.stack = s.stack.set s.sp.val (s.pcPlus 2) h ∧ t.sp.val = s.sp.val + 1 ∧ t.pc = nnn.setWidth 16 ∧
    t = { s with stack := t.stack, sp := t.sp, pc := t.pc })

/-- Any twelve nested calls succeed and the thirteenth records StackOverflow; nothing else records it (R221). -/
def Obligations.TwelveNestedCallsThenOverflow : Prop :=
  (∀ (targets : List Addr) (s : State), s.sp.val = 0 → s.fault = .none →
    (targets.length ≤ 12 →
      ∃ t, nestedCalls targets s = .next t ∧ t.sp.val = targets.length ∧ t.fault = .none) ∧
    (targets.length = 13 →
      ∃ t, nestedCalls targets s = .next t ∧ t.sp.val = 12 ∧ t.fault = .stackOverflow)) ∧
  (∀ (i : Instr) (s t : State), s.fault = .none → exec i s = .next t → t.fault = .stackOverflow →
    (∃ nnn, i = .call nnn) ∧ s.sp.val = 12)

/-- SE_IMM and SNE_IMM skip on a register against an immediate (R113, R114). The patterns are those of R73, general knowledge by its own mark (log entry 9). -/
def Obligations.SkipsOnImmediate : Prop :=
  (∀ (x : Reg) (nn : Byte), decodeWord (wordXNN 0x3 (regNibble x) nn) = .seImm x nn ∧
    decodeWord (wordXNN 0x4 (regNibble x) nn) = .sneImm x nn) ∧
  (∀ (x : Reg) (nn : Byte) (s : State),
    exec (.seImm x nn) s = .next { s with pc := if s.v[x] = nn then s.pcPlus 4 else s.pcPlus 2 } ∧
    exec (.sneImm x nn) s = .next { s with pc := if s.v[x] ≠ nn then s.pcPlus 4 else s.pcPlus 2 })

/-- SE_REG and SNE_REG skip on two registers (R115, R116). The patterns are those of R73, general knowledge by its own mark (log entry 9). -/
def Obligations.SkipsOnRegisters : Prop :=
  (∀ x y : Reg, decodeWord (word4 0x5 (regNibble x) (regNibble y) 0) = .seReg x y ∧
    decodeWord (word4 0x9 (regNibble x) (regNibble y) 0) = .sneReg x y) ∧
  (∀ (x y : Reg) (n : Nibble), n ≠ 0 →
    decodeWord (word4 0x5 (regNibble x) (regNibble y) n) = .unrecognized (word4 0x5 (regNibble x) (regNibble y) n) ∧
    decodeWord (word4 0x9 (regNibble x) (regNibble y) n) = .unrecognized (word4 0x9 (regNibble x) (regNibble y) n)) ∧
  (∀ (x y : Reg) (s : State),
    exec (.seReg x y) s = .next { s with pc := if s.v[x] = s.v[y] then s.pcPlus 4 else s.pcPlus 2 } ∧
    exec (.sneReg x y) s = .next { s with pc := if s.v[x] ≠ s.v[y] then s.pcPlus 4 else s.pcPlus 2 })

/-- JP_V0 jumps to V[0] + NNN modulo 4096 (the reduction is decision D9) (41_control_flow.md section 'JP_V0: jump with offset' (R117)). The patterns are those of R73, general knowledge by its own mark (log entry 9). -/
def Obligations.JpV0AddsV0 : Prop :=
  (∀ nnn : Addr, decodeWord (wordNNN 0xB nnn) = .jpV0 nnn) ∧
  (∀ (nnn : Addr) (s : State),
    exec (.jpV0 nnn) s = .next { s with pc := BitVec.ofNat 16 ((s.v[0].toNat + nnn.toNat) % 4096) })

/-- LD_IMM loads an immediate and LD_REG copies a register (R130, R132). The patterns are those of R73, general knowledge by its own mark (log entry 9). -/
def Obligations.LoadsOfARegister : Prop :=
  (∀ (x : Reg) (nn : Byte), decodeWord (wordXNN 0x6 (regNibble x) nn) = .ldImm x nn) ∧
  (∀ x y : Reg, decodeWord (word4 0x8 (regNibble x) (regNibble y) 0) = .ldReg x y) ∧
  (∀ (x : Reg) (nn : Byte) (s : State),
    exec (.ldImm x nn) s = .next { s with v := s.v.set x nn, pc := s.pcPlus 2 }) ∧
  (∀ (x y : Reg) (s : State),
    exec (.ldReg x y) s = .next { s with v := s.v.set x s.v[y], pc := s.pcPlus 2 })

/-- ADD_IMM adds modulo 256 and writes no flag (R131). The patterns are those of R73, general knowledge by its own mark (log entry 9). -/
def Obligations.AddImmWrapsWithoutFlag : Prop :=
  (∀ (x : Reg) (nn : Byte), decodeWord (wordXNN 0x7 (regNibble x) nn) = .addImm x nn) ∧
  (∀ (x : Reg) (nn : Byte) (s : State),
    exec (.addImm x nn) s = .next { s with v := s.v.set x (s.v[x] + nn), pc := s.pcPlus 2 })

/-- OR, AND and XOR set V[X], then clear VF in the legacy setting only (R133, R134, R135). The patterns are those of R73, general knowledge by its own mark (log entry 9). -/
def Obligations.BitwiseResultAndLegacyFlag : Prop :=
  (∀ x y : Reg, decodeWord (word4 0x8 (regNibble x) (regNibble y) 1) = .or x y ∧
    decodeWord (word4 0x8 (regNibble x) (regNibble y) 2) = .and x y ∧
    decodeWord (word4 0x8 (regNibble x) (regNibble y) 3) = .xor x y) ∧
  (∀ (x y : Reg) (s : State), s.cfg.legacyBitwiseClearsFlag = true →
    exec (.or x y) s = .next { s with v := (s.v.set x (s.v[x] ||| s.v[y])).set 15 0, pc := s.pcPlus 2 } ∧
    exec (.and x y) s = .next { s with v := (s.v.set x (s.v[x] &&& s.v[y])).set 15 0, pc := s.pcPlus 2 } ∧
    exec (.xor x y) s = .next { s with v := (s.v.set x (s.v[x] ^^^ s.v[y])).set 15 0, pc := s.pcPlus 2 }) ∧
  (∀ (x y : Reg) (s : State), s.cfg.legacyBitwiseClearsFlag = false →
    exec (.or x y) s = .next { s with v := s.v.set x (s.v[x] ||| s.v[y]), pc := s.pcPlus 2 } ∧
    exec (.and x y) s = .next { s with v := s.v.set x (s.v[x] &&& s.v[y]), pc := s.pcPlus 2 } ∧
    exec (.xor x y) s = .next { s with v := s.v.set x (s.v[x] ^^^ s.v[y]), pc := s.pcPlus 2 })

/-- ADD_REG adds modulo 256 and writes the carry to VF last (R136). The patterns are those of R73, general knowledge by its own mark (log entry 9). -/
def Obligations.AddRegSumAndCarry : Prop :=
  (∀ x y : Reg, decodeWord (word4 0x8 (regNibble x) (regNibble y) 4) = .addReg x y) ∧
  (∀ (x y : Reg) (s : State), exec (.addReg x y) s =
    .next { s with
      v := (s.v.set x (s.v[x] + s.v[y])).set 15 (if 255 < s.v[x].toNat + s.v[y].toNat then 1 else 0)
      pc := s.pcPlus 2 })

/-- SUB and SUBN subtract modulo 256 and write the not-borrow to VF last (R137, R139). The patterns are those of R73, general knowledge by its own mark (log entry 9). -/
def Obligations.SubtractionsAndNotBorrow : Prop :=
  (∀ x y : Reg, decodeWord (word4 0x8 (regNibble x) (regNibble y) 5) = .sub x y ∧
    decodeWord (word4 0x8 (regNibble x) (regNibble y) 7) = .subn x y) ∧
  (∀ (x y : Reg) (s : State),
    exec (.sub x y) s = .next { s with
      v := (s.v.set x (s.v[x] - s.v[y])).set 15 (if s.v[y].toNat ≤ s.v[x].toNat then 1 else 0)
      pc := s.pcPlus 2 } ∧
    exec (.subn x y) s = .next { s with
      v := (s.v.set x (s.v[y] - s.v[x])).set 15 (if s.v[x].toNat ≤ s.v[y].toNat then 1 else 0)
      pc := s.pcPlus 2 })

/-- SHR and SHL shift the configured source by one and write the shifted-out bit to VF last (the polarity of the option is decision D6) (42_alu.md (R138, R140), 92_eei_decisions.md D6). The patterns are those of R73, general knowledge by its own mark (log entry 9). -/
def Obligations.ShiftsAndShiftedOutBit : Prop :=
  (∀ x y : Reg, decodeWord (word4 0x8 (regNibble x) (regNibble y) 6) = .shr x y ∧
    decodeWord (word4 0x8 (regNibble x) (regNibble y) 0xE) = .shl x y) ∧
  (∀ (x y : Reg) (s : State) (src : Byte), src = (if s.cfg.legacyShiftSource then s.v[y] else s.v[x]) →
    exec (.shr x y) s = .next { s with
      v := (s.v.set x (src >>> 1)).set 15 (if src.getLsbD 0 then 1 else 0)
      pc := s.pcPlus 2 } ∧
    exec (.shl x y) s = .next { s with
      v := (s.v.set x (src <<< 1)).set 15 (if src.getLsbD 7 then 1 else 0)
      pc := s.pcPlus 2 })

/-- The flag an instruction writes is 0 or 1, and says carry or no borrow (R142). -/
def Obligations.FlagIsZeroOrOne : Prop :=
  (∀ (i : Instr) (s t : State), writesFlag s.cfg i = true → faultOf s i = .none → exec i s = .next t →
    t.v[15] = 0 ∨ t.v[15] = 1) ∧
  (∀ (x y : Reg) (s t : State), exec (.addReg x y) s = .next t →
    (t.v[15] = 1 ↔ 255 < s.v[x].toNat + s.v[y].toNat)) ∧
  (∀ (x y : Reg) (s t : State), exec (.sub x y) s = .next t →
    (t.v[15] = 1 ↔ s.v[y].toNat ≤ s.v[x].toNat))

/-- LD_I, ADD_I and LD_F set I, never modulo 4096, with no flag (16 bits wide by decision D11) (43_index_memory.md (R160, R161, R162), 92_eei_decisions.md D11). The patterns are those of R73, general knowledge by its own mark (log entry 9). -/
def Obligations.IndexRegisterInstructions : Prop :=
  (∀ nnn : Addr, decodeWord (wordNNN 0xA nnn) = .ldI nnn) ∧
  (∀ x : Reg, decodeWord (wordXNN 0xF (regNibble x) 0x1E) = .addI x ∧
    decodeWord (wordXNN 0xF (regNibble x) 0x29) = .ldF x) ∧
  (∀ (nnn : Addr) (s : State), exec (.ldI nnn) s = .next { s with i := nnn.setWidth 16, pc := s.pcPlus 2 }) ∧
  (∀ (x : Reg) (s : State),
    exec (.addI x) s = .next { s with i := s.i + s.v[x].setWidth 16, pc := s.pcPlus 2 } ∧
    exec (.ldF x) s = .next { s with i := 5 * s.v[x].setWidth 16, pc := s.pcPlus 2 })

/-- LD_B stores three decimal digits at I, or faults with no byte written (R163). The patterns are those of R73, general knowledge by its own mark (log entry 9). -/
def Obligations.LdBStoresDecimalDigits : Prop :=
  (∀ x : Reg, decodeWord (wordXNN 0xF (regNibble x) 0x33) = .ldB x) ∧
  (∀ (x : Reg) (s : State), s.i.toNat + 2 ≤ 4095 → ∃ t, exec (.ldB x) s = .next t ∧
    t.mem.read s.i.toNat = BitVec.ofNat 8 (s.v[x].toNat / 100) ∧
    t.mem.read (s.i.toNat + 1) = BitVec.ofNat 8 (s.v[x].toNat / 10 % 10) ∧
    t.mem.read (s.i.toNat + 2) = BitVec.ofNat 8 (s.v[x].toNat % 10) ∧
    (∀ a, a < s.i.toNat ∨ s.i.toNat + 2 < a → t.mem.read a = s.mem.read a) ∧
    t = { s with mem := t.mem, pc := s.pcPlus 2 }) ∧
  (∀ (x : Reg) (s : State), 4095 < s.i.toNat + 2 →
    exec (.ldB x) s = .next { s with fault := .memoryAccessOutOfBounds })

/-- LD_MEM_VX stores V[0] to V[X] at I, or faults with nothing written (R164). The patterns are those of R73, general knowledge by its own mark (log entry 9). -/
def Obligations.LdMemVxStoresRegisters : Prop :=
  (∀ x : Reg, decodeWord (wordXNN 0xF (regNibble x) 0x55) = .ldMemVx x) ∧
  (∀ (x : Reg) (s : State), s.i.toNat + x.val ≤ 4095 → ∃ t, exec (.ldMemVx x) s = .next t ∧
    (∀ j : Reg, j ≤ x → t.mem.read (s.i.toNat + j.val) = s.v[j]) ∧
    (∀ a, a < s.i.toNat ∨ s.i.toNat + x.val < a → t.mem.read a = s.mem.read a) ∧
    t.i.toNat = (if s.cfg.legacyIndexIncrementOnBulkTransfer then s.i.toNat + x.val + 1 else s.i.toNat) ∧
    t = { s with mem := t.mem, i := t.i, pc := s.pcPlus 2 }) ∧
  (∀ (x : Reg) (s : State), 4095 < s.i.toNat + x.val →
    exec (.ldMemVx x) s = .next { s with fault := .memoryAccessOutOfBounds })

/-- LD_VX_MEM loads V[0] to V[X] from I, or faults with no register changed; a dump then a load restores (R165). The patterns are those of R73, general knowledge by its own mark (log entry 9). -/
def Obligations.LdVxMemLoadsRegisters : Prop :=
  (∀ x : Reg, decodeWord (wordXNN 0xF (regNibble x) 0x65) = .ldVxMem x) ∧
  (∀ (x : Reg) (s : State), s.i.toNat + x.val ≤ 4095 → ∃ t, exec (.ldVxMem x) s = .next t ∧
    (∀ j : Reg, t.v[j] = if j ≤ x then s.mem.read (s.i.toNat + j.val) else s.v[j]) ∧
    t.i.toNat = (if s.cfg.legacyIndexIncrementOnBulkTransfer then s.i.toNat + x.val + 1 else s.i.toNat) ∧
    t = { s with v := t.v, i := t.i, pc := s.pcPlus 2 }) ∧
  (∀ (x : Reg) (s : State), 4095 < s.i.toNat + x.val →
    exec (.ldVxMem x) s = .next { s with fault := .memoryAccessOutOfBounds }) ∧
  (∀ (x : Reg) (s : State), s.i.toNat + x.val ≤ 4095 → ∃ t u, exec (.ldMemVx x) s = .next t ∧
    exec (.ldVxMem x) { t with i := s.i } = .next u ∧ u.v = s.v)

/-- CLS sets every framebuffer cell to off (R180). The patterns are those of R73, general knowledge by its own mark (log entry 9). -/
def Obligations.ClsTurnsEveryCellOff : Prop :=
  decodeWord 0x00E0 = .cls ∧
  (∀ s : State, ∃ t, exec .cls s = .next t ∧ (∀ (y : Fin 32) (x : Fin 64), t.fb[y][x] = false) ∧
    t = { s with fb := t.fb, pc := s.pcPlus 2 })

/-- DRW inverts exactly the cells under sprite bits of 1, clipped at the edges, and VF is the collision (bit order by decision D18) (44_display.md section 'DRW: draw sprite' (R181)). The patterns are those of R73, general knowledge by its own mark (log entry 9). -/
def Obligations.DrwFlipsSpriteCells : Prop :=
  (∀ (x y : Reg) (n : Nibble), decodeWord (word4 0xD (regNibble x) (regNibble y) n) = .drw x y n) ∧
  (∀ (vx vy : Reg) (n : Nibble) (s : State) (x0 y0 : Nat),
    n.toNat = 0 ∨ s.i.toNat + n.toNat - 1 ≤ 4095 → x0 = s.v[vx].toNat % 64 → y0 = s.v[vy].toNat % 32 →
    ∃ t, exec (.drw vx vy n) s = .next t ∧
      (∀ (y : Fin 32) (x : Fin 64),
        t.fb[y][x] = (s.fb[y][x] ^^ s.spritePixel x0 y0 n.toNat x.val y.val)) ∧
      ((t.v[15] = 1 ∧ ∃ (y : Fin 32) (x : Fin 64),
          s.fb[y][x] = true ∧ s.spritePixel x0 y0 n.toNat x.val y.val = true) ∨
       (t.v[15] = 0 ∧ ∀ (y : Fin 32) (x : Fin 64),
          s.fb[y][x] = true → s.spritePixel x0 y0 n.toNat x.val y.val = false)) ∧
      t = { s with fb := t.fb, v := s.v.set 15 t.v[15], pc := s.pcPlus 2 }) ∧
  (∀ (vx vy : Reg) (n : Nibble) (s : State), 1 ≤ n.toNat → 4095 < s.i.toNat + n.toNat - 1 →
    exec (.drw vx vy n) s = .next { s with fault := .memoryAccessOutOfBounds })

/-- DRW does what the loops of R181's pseudocode do (range first by decision D12, bit order D18) (44_display.md section 'DRW: draw sprite' (R181), 92_eei_decisions.md D12, D18). The patterns are those of R73, general knowledge by its own mark (log entry 9). -/
def Obligations.DrwMeetsItsPseudocode : Prop :=
  (∀ (x y : Reg) (n : Nibble), decodeWord (word4 0xD (regNibble x) (regNibble y) n) = .drw x y n) ∧
  (∀ (x y : Reg) (n : Nibble) (s : State) (p : Framebuffer × Bool),
    ¬ (1 ≤ n.toNat ∧ 4095 < s.i.toNat + n.toNat - 1) →
    p = drwRows s.mem s.i.toNat (s.v[x].toNat % 64) (s.v[y].toNat % 32) (List.range n.toNat) (s.fb, false) →
    exec (.drw x y n) s =
      .next { s with fb := p.1, v := s.v.set 15 (if p.2 then 1 else 0), pc := s.pcPlus 2 }) ∧
  (∀ (x y : Reg) (n : Nibble) (s : State), 1 ≤ n.toNat ∧ 4095 < s.i.toNat + n.toNat - 1 →
    exec (.drw x y n) s = .next { s with fault := .memoryAccessOutOfBounds })

/-- Drawing the same sprite twice restores the framebuffer, and the second flag says whether the first turned a cell on (44_display.md (R181, R182), 95_test_vectors.md S2). -/
def Obligations.DrawTwiceRestores : Prop :=
  ∀ (vx vy : Reg) (n : Nibble) (s : State), vx ≠ 15 → vy ≠ 15 →
    (n.toNat = 0 ∨ s.i.toNat + n.toNat - 1 ≤ 4095) →
    ∃ t u, exec (.drw vx vy n) s = .next t ∧ exec (.drw vx vy n) t = .next u ∧ u.fb = s.fb ∧
      (u.v[15] = 0 ∨ u.v[15] = 1) ∧
      (u.v[15] = 1 ↔ ∃ (y : Fin 32) (x : Fin 64), s.fb[y][x] = false ∧ t.fb[y][x] = true) ∧
      ((∀ (y : Fin 32) (x : Fin 64),
          s.spritePixel (s.v[vx].toNat % 64) (s.v[vy].toNat % 32) n.toNat x.val y.val = false) →
        t.fb = s.fb ∧ t.v[15] = 0 ∧ u.v[15] = 0)

/-- SKP and SKNP skip on the key named by the low 4 bits of V[X] (R190, R191). The patterns are those of R73, general knowledge by its own mark (log entry 9). -/
def Obligations.SkipsOnKey : Prop :=
  (∀ x : Reg, decodeWord (wordXNN 0xE (regNibble x) 0x9E) = .skp x ∧
    decodeWord (wordXNN 0xE (regNibble x) 0xA1) = .sknp x) ∧
  (∀ (x : Reg) (s : State) (k : Key), k.val = s.v[x].toNat % 16 →
    exec (.skp x) s = .next { s with pc := if s.key[k] = true then s.pcPlus 4 else s.pcPlus 2 } ∧
    exec (.sknp x) s = .next { s with pc := if s.key[k] = false then s.pcPlus 4 else s.pcPlus 2 })

/-- LD_VX_DT reads and LD_DT_VX writes the delay timer (R192, R193). The patterns are those of R73, general knowledge by its own mark (log entry 9). -/
def Obligations.DelayTimerMoves : Prop :=
  (∀ x : Reg, decodeWord (wordXNN 0xF (regNibble x) 0x07) = .ldVxDt x ∧
    decodeWord (wordXNN 0xF (regNibble x) 0x15) = .ldDtVx x) ∧
  (∀ (x : Reg) (s : State),
    exec (.ldVxDt x) s = .next { s with v := s.v.set x s.dt, pc := s.pcPlus 2 } ∧
    exec (.ldDtVx x) s = .next { s with dt := s.v[x], pc := s.pcPlus 2 })

/-- LD_VX_K records a pressed key, waits for its release, then stores it (the algorithm is decision D17) (45_input_timer_random.md section 'LD_VX_K: await key' (R194), 92_eei_decisions.md D17). The patterns are those of R73, general knowledge by its own mark (log entry 9). -/
def Obligations.AwaitKeyOneStep : Prop :=
  (∀ x : Reg, decodeWord (wordXNN 0xF (regNibble x) 0x0A) = .ldVxK x) ∧
  (∀ (x : Reg) (s : State), s.awaitValid = false → (∀ k : Key, s.key[k] = false) →
    exec (.ldVxK x) s = .next s) ∧
  (∀ (x : Reg) (s : State) (k : Key), s.awaitValid = false → s.key[k] = true →
    (∀ j : Key, j < k → s.key[j] = false) →
    exec (.ldVxK x) s = .next { s with awaitValid := true, awaitKey := k }) ∧
  (∀ (x : Reg) (s : State), s.awaitValid = true → s.key[s.awaitKey] = true → exec (.ldVxK x) s = .next s) ∧
  (∀ (x : Reg) (s : State), s.awaitValid = true → s.key[s.awaitKey] = false →
    exec (.ldVxK x) s = .next { s with
      v := s.v.set x (BitVec.ofNat 8 s.awaitKey.val), awaitValid := false, pc := s.pcPlus 2 }) ∧
  (∀ (x : Reg) (s : State), s.runState = .running → s.fault = .none → s.fetched = .ldVxK x →
    stepOutcome s = if s.awaitValid = true ∧ s.key[s.awaitKey] = false then .executed else .waiting)

/-- A press and a release complete LD_VX_K over four transactions (of the model's agenda, log entry 2; the algorithm is decision D17) (45_input_timer_random.md section 'LD_VX_K: await key' (R194), 40_step_cycle.md R98, 95_test_vectors.md P6, 92_eei_decisions.md D17, log entry 2). -/
def Obligations.AwaitKeyCompletesOnRelease : Prop :=
  ∀ (x : Reg) (s : State) (k : Key) (down up : KeyLatch), s.runState = .running → s.fault = .none →
    s.awaitValid = false → s.fetched = .ldVxK x →
    s.agenda = [.setKeys down, .step, .setKeys up, .step] →
    down[k] = true → (∀ j : Key, j < k → down[j] = false) → up[k] = false →
    Host.Core.run Sys2Proof.core 4 s = .next { s with
      v := s.v.set x (BitVec.ofNat 8 k.val), awaitKey := k, pc := s.pcPlus 2, key := up, agenda := [] }

/-- RND stores the host's free byte under the mask (the model's count of bytes: log entry 1) (45_input_timer_random.md (R195), 40_step_cycle.md R99, log entry 1). The patterns are those of R73, general knowledge by its own mark (log entry 9). -/
def Obligations.RndMasksTheFreeByte : Prop :=
  (∀ (x : Reg) (nn : Byte), decodeWord (wordXNN 0xC (regNibble x) nn) = .rnd x nn) ∧
  (∀ (x : Reg) (nn : Byte) (s : State), exec (.rnd x nn) s =
    .next { s with v := s.v.set x (Config.rnd s.draw &&& nn), draw := s.draw + 1, pc := s.pcPlus 2 }) ∧
  (∀ (x : Reg) (nn : Byte) (s : State) (j : Nat), nn.getLsbD j = false →
    ∃ t, exec (.rnd x nn) s = .next t ∧ t.v[x].getLsbD j = false)

/-- An unrecognized word only advances pc and is reported (which words: decision D4, log entry 9; the outcome: D24) (46_unrecognized.md R210, 30_encoding.md section 4 (R75), 40_step_cycle.md R97, 92_eei_decisions.md D4, D24, log entry 9). -/
def Obligations.UnrecognizedOnlyAdvances : Prop :=
  (∀ op : Word, unrecognizedWord op → decodeWord op = .unrecognized op) ∧
  (∀ (op : Word) (s : State), exec (.unrecognized op) s = .next { s with pc := s.pcPlus 2 }) ∧
  (∀ (op : Word) (s : State), s.runState = .running → s.fault = .none → s.fetched = .unrecognized op →
    stepOutcome s = .executedUnrecognized op)

/-- Decoding the bytes of a well-formed instruction's encoding gives it back (30_encoding.md sections 1 to 3 (R70, R71, R72, R73), 20_memory.md R52). -/
def Obligations.DecodeOfEncodeIsIdentity : Prop :=
  ∀ (i : Instr) (rest : List Byte), i.wellFormed = true →
    decode (bytesOfWord (encode i) ++ rest) = .ok (i, rest)

/-- Every word decodes to a well-formed instruction that encodes to that word (30_encoding.md sections 3 and 4 (R73, R74, R75)). -/
def Obligations.EncodeOfDecodeIsIdentity : Prop :=
  ∀ op : Word, (decodeWord op).wellFormed = true ∧ encode (decodeWord op) = op

/-- The decoder takes the first matching row of the opcode table, and the rows are disjoint (R74). -/
def Obligations.DecoderFollowsOpcodeTable : Prop :=
  opcodeTable.length = 33 ∧
  (∀ op : Word, (decodeWord op).op = selectOp op) ∧
  (∀ (op : Word) (r r' : OpcodeRow), r ∈ opcodeTable → r' ∈ opcodeTable →
    r.selects op = true → r'.selects op = true → r = r')

/-- The words that decode to UNRECOGNIZED are exactly the listed ones (strict fixed fields by decision D4, log entry 9) (30_encoding.md section 4 (R75), 46_unrecognized.md R211, 92_eei_decisions.md D4, log entry 9). -/
def Obligations.UnrecognizedWordsExactly : Prop :=
  (∀ op : Word, (decodeWord op).op = .unrecognized ↔ unrecognizedWord op) ∧
  (∀ op op' : Word, decodeWord op = .unrecognized op' → op' = op)

/-- Words written out from the spec's patterns decode to their instructions (30_encoding.md R73, 95_test_vectors.md section 2). The patterns are those of R73, general knowledge by its own mark (log entry 9). -/
def Obligations.SampleWordsDecode : Prop :=
  decodeWord 0x00E0 = .cls ∧ decodeWord 0x220E = .call 0x20E ∧ decodeWord 0x332A = .seImm 3 0x2A ∧
  decodeWord 0x8AB4 = .addReg 10 11 ∧ decodeWord 0xA300 = .ldI 0x300 ∧ decodeWord 0xD015 = .drw 0 1 5 ∧
  decodeWord 0xE49E = .skp 4 ∧ decodeWord 0xF333 = .ldB 3 ∧ decodeWord 0xF018 = .unrecognized 0xF018

/-- A step executes the instruction its two bytes decode to, or the host's next transaction (log entry 2) (40_step_cycle.md (R90, R91, R92, R93, R94), 00_scope.md R3, log entry 2). -/
def Obligations.StepRunsDecodedInstruction : Prop :=
  (∀ (s : State) (i : Instr), s.runState = .running → s.fault = .none →
    decode s.fetchBytes = .ok (i, []) → transact .step s = exec i s) ∧
  (∀ (s : State) (i : Instr), s.Ready → decode s.fetchBytes = .ok (i, []) → step s = exec i s) ∧
  (∀ (s : State) (a : HostAction) (acts : List HostAction), s.agenda = a :: acts →
    step s = transact a { s with agenda := acts }) ∧
  (∀ (s : State) (a : HostAction) (acts : List HostAction), s.agenda = [] → s.plan = .repeating a acts →
    step s = transact a { s with agenda := acts }) ∧
  (∀ (s : State) (n : Nat), s.agenda = [] → s.plan = .free n →
    step s = transact (Config.hostChoice n) { s with plan := .free (n + 1) })

/-- The fetch reads the bytes at pc and (pc + 1) mod 4096, high byte first (R91). -/
def Obligations.FetchIsBigEndianAndWraps : Prop :=
  ∀ s : State, s.pc.toNat < 4096 →
    s.fetched = decodeWord (BitVec.ofNat 16
      ((s.mem.read s.pc.toNat).toNat * 256 + (s.mem.read ((s.pc.toNat + 1) % 4096)).toNat))

/-- A STEP is refused and changes nothing unless Running with no fault (the refusal after a fault is decision D15) (40_step_cycle.md R90, 92_eei_decisions.md D15, log entry 4). -/
def Obligations.ClosedGateRefusesStep : Prop :=
  (∀ s : State, s.runState ≠ .running ∨ s.fault ≠ .none →
    transact .step s = .next s ∧ stepOutcome s = .refused) ∧
  (∀ s : State, s.runState = .running → s.fault = .none → transact .step s = exec s.fetched s)

/-- Each STEP has the outcome its effect calls for (names by decisions D22, D24) (40_step_cycle.md R97, 92_eei_decisions.md D22, D24). -/
def Obligations.StepOutcomeIsOneOfFive : Prop :=
  (∀ s t : State, s.runState = .running → s.fault = .none → transact .step s = .next t → t.fault ≠ .none → stepOutcome s = .fault t.fault) ∧
  (∀ s t : State, s.runState = .running → s.fault = .none → transact .step s = .next t → t.fault = .none →
    (∀ op, s.fetched = .unrecognized op → stepOutcome s = .executedUnrecognized op) ∧
    (∀ x, s.fetched = .ldVxK x → stepOutcome s =
      if s.awaitValid = true ∧ s.key[s.awaitKey] = false then .executed else .waiting) ∧
    ((∀ op, s.fetched ≠ .unrecognized op) → (∀ x, s.fetched ≠ .ldVxK x) → stepOutcome s = .executed)) ∧
  (∀ s : State, s.runState ≠ .running ∨ s.fault ≠ .none → stepOutcome s = .refused)

/-- TICK decrements a non-zero dt, and no instruction decrements it (in every run state by decision D21) (60_exceptions.md R233, 92_eei_decisions.md D21). -/
def Obligations.TickDecrementsDelayTimer : Prop :=
  (∀ s : State, transact .tick s = .next { s with dt := if s.dt = 0 then 0 else s.dt - 1 }) ∧
  (∀ (i : Instr) (s t : State), exec i s = .next t →
    t.dt = s.dt ∨ ∃ x : Reg, i = .ldDtVx x ∧ t.dt = s.v[x])

/-- SET_KEYS replaces the latch, and nothing but it and RESET writes the latch (R236). -/
def Obligations.SetKeysIsTheOnlyLatchWriter : Prop :=
  (∀ (s : State) (latch : KeyLatch), transact (.setKeys latch) s = .next { s with key := latch }) ∧
  (∀ (a : HostAction) (s t : State), transact a s = .next t → t.key = s.key ∨
    (∃ latch, a = .setKeys latch) ∨ (∃ image cfg, a = .reset image cfg))

/-- SET_RUN_STATE is obeyed except in Halted, and nothing but it and RESET moves run_state (R241). -/
def Obligations.RunStateMovesOnlyByRequest : Prop :=
  (∀ (s : State) (r : RunState), transact (.setRunState r) s =
    .next { s with runState := if s.runState = .halted then .halted else r }) ∧
  (∀ (a : HostAction) (s t : State), transact a s = .next t → t.runState = s.runState ∨
    (∃ r, a = .setRunState r) ∨ (∃ image cfg, a = .reset image cfg))

/-- RESET accepts images up to 3584 bytes and gives no state for longer ones (decision D28; that an image too long ends the machine's session is log entry 5) (70_reset_and_hazards.md R261, 70_reset_and_hazards.md R260, 92_eei_decisions.md D28, log entries 5 and 12). -/
def Obligations.ResetChecksImageSize : Prop :=
  (∀ (font : Vector Byte 80) (image : List Byte) (cfg : Cfg), 3584 < image.length →
    resetWith font image cfg = .fault .imageTooLarge) ∧
  (∀ (font : Vector Byte 80) (image : List Byte) (cfg : Cfg), image.length ≤ 3584 →
    ∃ t, resetWith font image cfg = .next t) ∧
  (∀ (s : State) (image : List Byte) (cfg : Cfg),
    (3584 < image.length → transact (.reset image cfg) s = .fault .imageTooLarge) ∧
    (image.length ≤ 3584 → ∃ t, resetWith s.font image cfg = .next t ∧
      transact (.reset image cfg) s = .next { t with draw := s.draw, agenda := s.agenda, plan := s.plan }))

/-- RESET gives every piece of state its listed value (zeros the source does not list by decision D16, log entry 6) (70_reset_and_hazards.md R262, R263, 92_eei_decisions.md D16, log entry 6). -/
def Obligations.ResetStateIsAsListed : Prop :=
  ∀ (font : Vector Byte 80) (image : List Byte) (cfg : Cfg), image.length ≤ 3584 →
    ∃ t, resetWith font image cfg = .next t ∧
      (∀ a : Fin 80, t.mem.read a.val = font[a]) ∧
      (∀ a, 80 ≤ a → a < 512 → t.mem.read a = 0) ∧
      (∀ j (h : j < image.length), t.mem.read (512 + j) = image[j]) ∧
      (∀ a, 512 + image.length ≤ a → a ≤ 4095 → t.mem.read a = 0) ∧
      (∀ r : Reg, t.v[r] = 0) ∧ t.i = 0 ∧ t.pc = 0x200 ∧ t.sp.val = 0 ∧ (∀ j : Fin 12, t.stack[j] = 0) ∧
      t.dt = 0 ∧ (∀ (y : Fin 32) (x : Fin 64), t.fb[y][x] = false) ∧ (∀ k : Key, t.key[k] = false) ∧
      t.awaitValid = false ∧ t.awaitKey = 0 ∧ t.runState = .running ∧ t.fault = .none ∧ t.cfg = cfg ∧ t.font = font

/-- The first fetch after RESET reads the first two bytes of the image (R264). -/
def Obligations.FirstFetchIsAtProgramBase : Prop :=
  ∀ (font : Vector Byte 80) (image : List Byte) (cfg : Cfg) (t : State), resetWith font image cfg = .next t →
    t.pc = 0x200 ∧ t.fetched = decodeWord (BitVec.ofNat 16
      (((image[0]?).getD 0).toNat * 256 + ((image[1]?).getD 0).toNat))

/-- The model's reset state is RESET of an empty image with the documented defaults (70_reset_and_hazards.md section 1 (R260, R263), log entries 7 and 8). -/
def Obligations.ResetIsEmptyImageWithDefaults : Prop :=
  resetWith defaultFont [] defaultCfg = .next State.reset

/-- The reset state meets the invariant (10_state.md R38). -/
def Obligations.ResetMeetsInvariant : Prop :=
  State.reset.Inv

/-- Every state RESET gives meets the invariant (10_state.md R38, 70_reset_and_hazards.md R263, log entry 8). -/
def Obligations.EveryResetMeetsInvariant : Prop :=
  ∀ (font : Vector Byte 80) (image : List Byte) (cfg : Cfg) (t : State),
    resetWith font image cfg = .next t → t.Inv

/-- Every step keeps pc and the stack entries below 4096 and memory canonical (10_state.md R25, R26, R38, log entry 8). -/
def Obligations.EveryStepKeepsInvariant : Prop :=
  ∀ s t : State, s.Inv → step s = .next t → t.Inv

/-- Every instruction answers a next state, and faults exactly under the listed conditions (a fault as a next state: log entry 3) (60_exceptions.md R221, R222, R223, R225, R227, log entry 3). -/
def Obligations.FaultsExactlyWhenListed : Prop :=
  ∀ (i : Instr) (s : State), ∃ t, exec i s = .next t ∧
    (faultOf s i = .none → t.fault = s.fault) ∧
    (faultOf s i ≠ .none → t.fault = faultOf s i)

/-- A faulting step changes the fault register and nothing else (decision D13) (60_exceptions.md R227, 40_step_cycle.md R96, 92_eei_decisions.md D13). -/
def Obligations.FaultsArePrecise : Prop :=
  ∀ s t : State, s.runState = .running → s.fault = .none → transact .step s = .next t → t.fault ≠ .none →
    stepOutcome s = .fault t.fault ∧ t = { s with fault := t.fault }

/-- After a fault, or while not Running, only TICK, SET_KEYS and SET_RUN_STATE change anything (decision D15, log entry 4) (60_exceptions.md R228, R229, R242, R243, 70_reset_and_hazards.md R271, 92_eei_decisions.md D15, log entry 4). -/
def Obligations.ClosedGateFreezesTheMachine : Prop :=
  ∀ (a : HostAction) (s : State), s.runState ≠ .running ∨ s.fault ≠ .none → (∀ image cfg, a ≠ .reset image cfg) →
    ∃ t, transact a s = .next t ∧ t = { s with dt := t.dt, key := t.key, runState := t.runState } ∧
      (a = .step → t = s) ∧ (a ≠ .tick → t.dt = s.dt) ∧ ((∀ latch, a ≠ .setKeys latch) → t.key = s.key) ∧
      ((∀ r, a ≠ .setRunState r) → t.runState = s.runState) ∧ (s.runState = .halted → t.runState = .halted)

/-- A register changes only as a named destination, or as VF by a flag instruction (10_state.md R21, R22, 40_step_cycle.md R95). -/
def Obligations.RegistersChangeOnlyByName : Prop :=
  ∀ (i : Instr) (s t : State) (r : Reg), exec i s = .next t → writesReg r i = false →
    (r = 15 → writesFlag s.cfg i = false) → t.v[r] = s.v[r]

/-- Memory, display, stack, I, await-key fields and control state change only by their writers (the model's own fields: log entries 1, 2, 8) (20_memory.md R51, R65, 10_state.md section 12, 60_exceptions.md R241, log entries 1, 2 and 8). -/
def Obligations.EachStorageHasItsWriters : Prop :=
  ∀ (i : Instr) (s t : State), exec i s = .next t →
    (t.mem = s.mem ∨ ∃ x, i = .ldB x ∨ i = .ldMemVx x) ∧
    (t.fb = s.fb ∨ i = .cls ∨ ∃ x y n, i = .drw x y n) ∧
    ((t.stack = s.stack ∧ t.sp = s.sp) ∨ i = .ret ∨ ∃ nnn, i = .call nnn) ∧
    (t.i = s.i ∨ (∃ nnn, i = .ldI nnn) ∨ (∃ x, i = .addI x ∨ i = .ldF x) ∨
      (s.cfg.legacyIndexIncrementOnBulkTransfer = true ∧ ∃ x, i = .ldMemVx x ∨ i = .ldVxMem x)) ∧
    ((t.awaitValid = s.awaitValid ∧ t.awaitKey = s.awaitKey) ∨ ∃ x, i = .ldVxK x) ∧
    (t.draw = s.draw ∨ ∃ x nn, i = .rnd x nn) ∧
    t.key = s.key ∧ t.runState = s.runState ∧ t.cfg = s.cfg ∧ t.font = s.font ∧
    t.agenda = s.agenda ∧ t.plan = s.plan

/-- Every instruction but seven does the same under every configuration (RND with the same free byte: log entry 1) (30_encoding.md R76, 10_state.md section 12, log entry 1). -/
def Obligations.OnlySevenInstructionsReadCfg : Prop :=
  ∀ (i : Instr) (s t : State) (cfg : Cfg), dependsOnCfg i = false → exec i s = .next t →
    exec i { s with cfg := cfg } = .next { t with cfg := cfg }

/-- Nothing but RESET changes the configuration (R34). -/
def Obligations.CfgIsFixedForTheSession : Prop :=
  ∀ (a : HostAction) (s t : State), transact a s = .next t →
    (∀ image cfg, a = .reset image cfg → t.cfg = cfg) ∧
    ((∀ image cfg, a ≠ .reset image cfg) → t.cfg = s.cfg)

/-- A JP to its own address leaves the whole state unchanged (the host only steps: log entry 2) (41_control_flow.md R111, 70_reset_and_hazards.md R271, log entry 2). -/
def Obligations.JumpToSelfIsStable : Prop :=
  ∀ (s : State) (nnn : Addr), s.Ready → s.pc = nnn.setWidth 16 → s.fetched = .jp nnn → step s = .next s

/-- A store over the next instruction is what the next fetch reads (decision D31, log entry 10) (20_memory.md R63, 70_reset_and_hazards.md R268, 92_eei_decisions.md D31, log entry 10). -/
def Obligations.StoreIsSeenByNextFetch : Prop :=
  (∀ (x : Reg) (s : State), 1 ≤ x.val → s.i.toNat + x.val ≤ 4095 → s.i = s.pcPlus 2 →
    ∃ t, exec (.ldMemVx x) s = .next t ∧
      t.fetched = decodeWord (BitVec.ofNat 16 (s.v[0].toNat * 256 + s.v[1].toNat))) ∧
  (∀ s : State, s.i = s.pcPlus 2 →
    ∃ t, exec (.ldMemVx 0) s = .next t ∧
      t.fetched = decodeWord (BitVec.ofNat 16
        (s.v[0].toNat * 256 + (s.mem.read ((s.i.toNat + 1) % 4096)).toNat))) ∧
  (∀ (x : Reg) (s : State), s.i.toNat + 2 ≤ 4095 → s.i = s.pcPlus 2 →
    ∃ t, exec (.ldB x) s = .next t ∧
      t.fetched = decodeWord (BitVec.ofNat 16 (s.v[x].toNat / 100 * 256 + s.v[x].toNat / 10 % 10)))

/-- No transaction changes FONT, every RESET copies it, and LD_F points at its glyphs (the parameter is decision D19, log entry 8) (20_memory.md R57, 70_reset_and_hazards.md R262, 43_index_memory.md R162, 92_eei_decisions.md D19, log entry 8). -/
def Obligations.FontIsConstantAndCopied : Prop :=
  (∀ (a : HostAction) (s t : State), transact a s = .next t → t.font = s.font) ∧
  (∀ (s t : State) (image : List Byte) (cfg : Cfg), transact (.reset image cfg) s = .next t →
    ∀ (d : Fin 16) (r : Fin 5), some (t.mem.read (5 * d.val + r.val)) = s.font[5 * d.val + r.val]?) ∧
  (∀ (x : Reg) (s : State), ∃ t, exec (.ldF x) s = .next t ∧ t.i.toNat = 5 * s.v[x].toNat)

/-- The machine performs any transactions in any order, without end under a free plan (log entry 2) (00_scope.md R3, 60_exceptions.md R233, log entry 2). -/
def Obligations.EveryOrderOfTransactionsRuns : Prop :=
  (∀ (acts later : List HostAction) (s : State), s.agenda = acts ++ later →
    Host.Core.run Sys2Proof.core acts.length s = transactAll acts { s with agenda := later }) ∧
  (∀ (k n : Nat) (s : State), s.agenda = [] → s.plan = .free n →
    Host.Core.run Sys2Proof.core k s =
      transactAll ((List.range k).map fun j => Config.hostChoice (n + j)) { s with plan := .free (n + k) })

/-- A host that only ticks, ticks for ever: dt falls to 0 and stays there, and nothing else changes (log entry 2) (60_exceptions.md R233, 92_eei_decisions.md D21, log entry 2). -/
def Obligations.HostMayTickForEver : Prop :=
  ∀ (k : Nat) (s : State), s.agenda = [] → s.plan = .repeating .tick [] →
    ∃ t, Host.Core.run Sys2Proof.core k s = .next t ∧ t.dt.toNat = s.dt.toNat - k ∧ t = { s with dt := t.dt }
end

