-- ==== Sys2Proof/Laws/Decode.lean ====
section
/-! SUPPORT. The fields of a word as numbers, and the fields of a word built from nibbles, a register and a byte, or an address: the lemmas every decoding of a pattern rests on (R71, R72). -/

namespace Sys2Proof

@[simp] theorem regNibble_toNat (x : Reg) : (regNibble x).toNat = x.val := rfl

@[simp] theorem regNibble_toFin (x : Reg) : (regNibble x).toFin = x := rfl

/-! ### The fields of a word as numbers -/

theorem familyOf_toNat (op : Word) : (familyOf op).toNat = op.toNat / 4096 := by
  have := op.isLt
  simp only [familyOf, BitVec.extractLsb'_toNat, Nat.shiftRight_eq_div_pow]
  omega

theorem xOf_val (op : Word) : (xOf op).val = op.toNat / 256 % 16 := by
  show (op.extractLsb' 8 4).toNat = _
  simp only [BitVec.extractLsb'_toNat, Nat.shiftRight_eq_div_pow]

theorem yOf_val (op : Word) : (yOf op).val = op.toNat / 16 % 16 := by
  show (op.extractLsb' 4 4).toNat = _
  simp only [BitVec.extractLsb'_toNat, Nat.shiftRight_eq_div_pow]

theorem nOf_toNat (op : Word) : (nOf op).toNat = op.toNat % 16 := by
  simp only [nOf, BitVec.extractLsb'_toNat, Nat.shiftRight_eq_div_pow]
  omega

theorem nnOf_toNat (op : Word) : (nnOf op).toNat = op.toNat % 256 := by
  simp only [nnOf, BitVec.extractLsb'_toNat, Nat.shiftRight_eq_div_pow]
  omega

theorem nnnOf_toNat (op : Word) : (nnnOf op).toNat = op.toNat % 4096 := by
  simp only [nnnOf, BitVec.extractLsb'_toNat, Nat.shiftRight_eq_div_pow]
  omega

/-! ### The words as numbers -/

theorem word4_toNat (f x y n : Nibble) :
    (word4 f x y n).toNat = ((f.toNat * 16 + x.toNat) * 16 + y.toNat) * 16 + n.toNat := by
  have := f.isLt; have := x.isLt; have := y.isLt; have := n.isLt
  simp only [word4, BitVec.toNat_ofNat]
  omega

theorem wordXNN_toNat (f x : Nibble) (nn : Byte) :
    (wordXNN f x nn).toNat = (f.toNat * 16 + x.toNat) * 256 + nn.toNat := by
  have := f.isLt; have := x.isLt; have := nn.isLt
  simp only [wordXNN, BitVec.toNat_ofNat]
  omega

theorem wordNNN_toNat (f : Nibble) (nnn : Addr) : (wordNNN f nnn).toNat = f.toNat * 4096 + nnn.toNat := by
  have := f.isLt; have := nnn.isLt
  simp only [wordNNN, BitVec.toNat_ofNat]
  omega

/-- The bytes of a word combine to the word (R52). -/
@[simp] theorem wordOfBytes_bytes (op : Word) :
    wordOfBytes (op.extractLsb' 8 8) (op.extractLsb' 0 8) = op := by
  have := op.isLt
  apply BitVec.eq_of_toNat_eq
  simp only [wordOfBytes, BitVec.toNat_ofNat, BitVec.extractLsb'_toNat, Nat.shiftRight_eq_div_pow]
  omega

/-- The bytes of a word decode as the word. -/
@[simp] theorem decode_bytesOfWord (op : Word) (rest : List Byte) :
    decode (bytesOfWord op ++ rest) = .ok (decodeWord op, rest) := by
  simp [decode, bytesOfWord]

/-! ### The fields of a pattern -/

section
variable (f x y n : Nibble) (nn : Byte) (nnn : Addr)

@[simp] theorem familyOf_word4 : familyOf (word4 f x y n) = f := by
  apply BitVec.eq_of_toNat_eq
  have := f.isLt; have := x.isLt; have := y.isLt; have := n.isLt
  rw [familyOf_toNat, word4_toNat]
  omega

@[simp] theorem xOf_word4 : xOf (word4 f x y n) = x.toFin := by
  apply Fin.ext
  have := f.isLt; have := x.isLt; have := y.isLt; have := n.isLt
  rw [xOf_val, word4_toNat]
  show _ = x.toNat
  omega

@[simp] theorem yOf_word4 : yOf (word4 f x y n) = y.toFin := by
  apply Fin.ext
  have := f.isLt; have := x.isLt; have := y.isLt; have := n.isLt
  rw [yOf_val, word4_toNat]
  show _ = y.toNat
  omega

@[simp] theorem nOf_word4 : nOf (word4 f x y n) = n := by
  apply BitVec.eq_of_toNat_eq
  have := n.isLt
  rw [nOf_toNat, word4_toNat]
  omega

@[simp] theorem familyOf_wordXNN : familyOf (wordXNN f x nn) = f := by
  apply BitVec.eq_of_toNat_eq
  have := f.isLt; have := x.isLt; have := nn.isLt
  rw [familyOf_toNat, wordXNN_toNat]
  omega

@[simp] theorem xOf_wordXNN : xOf (wordXNN f x nn) = x.toFin := by
  apply Fin.ext
  have := f.isLt; have := x.isLt; have := nn.isLt
  rw [xOf_val, wordXNN_toNat]
  show _ = x.toNat
  omega

@[simp] theorem nnOf_wordXNN : nnOf (wordXNN f x nn) = nn := by
  apply BitVec.eq_of_toNat_eq
  have := nn.isLt
  rw [nnOf_toNat, wordXNN_toNat]
  omega

@[simp] theorem familyOf_wordNNN : familyOf (wordNNN f nnn) = f := by
  apply BitVec.eq_of_toNat_eq
  have := f.isLt; have := nnn.isLt
  rw [familyOf_toNat, wordNNN_toNat]
  omega

@[simp] theorem nnnOf_wordNNN : nnnOf (wordNNN f nnn) = nnn := by
  apply BitVec.eq_of_toNat_eq
  have := nnn.isLt
  rw [nnnOf_toNat, wordNNN_toNat]
  omega

end

/-- A word is its family, `X`, `Y` and `N` (R71). -/
theorem word4_fields (op : Word) : word4 (familyOf op) (regNibble (xOf op)) (regNibble (yOf op)) (nOf op) = op := by
  apply BitVec.eq_of_toNat_eq
  have := op.isLt
  rw [word4_toNat, regNibble_toNat, regNibble_toNat, familyOf_toNat, nOf_toNat, xOf_val, yOf_val]
  omega

/-- A word is its family, `X` and `NN` (R71). -/
theorem wordXNN_fields (op : Word) : wordXNN (familyOf op) (regNibble (xOf op)) (nnOf op) = op := by
  apply BitVec.eq_of_toNat_eq
  have := op.isLt
  rw [wordXNN_toNat, regNibble_toNat, familyOf_toNat, nnOf_toNat, xOf_val]
  omega

/-- A word is its family and `NNN` (R71). -/
theorem wordNNN_fields (op : Word) : wordNNN (familyOf op) (nnnOf op) = op := by
  apply BitVec.eq_of_toNat_eq
  have := op.isLt
  rw [wordNNN_toNat, familyOf_toNat, nnnOf_toNat]
  omega

/-! ### The masks of the opcode table (R73) -/

/-- The high nibble of a 16-bit number under its mask. -/
theorem and_family (n : Nat) (h : n < 65536) : n &&& 0xF000 = n / 4096 * 4096 := by
  apply Nat.eq_of_testBit_eq
  intro i
  have hs : n / 4096 * 4096 = (n >>> 12) <<< 12 := by simp [Nat.shiftRight_eq_div_pow, Nat.shiftLeft_eq]
  rw [hs, Nat.testBit_and, Nat.testBit_shiftLeft, Nat.testBit_shiftRight]
  by_cases hi : i < 16
  · interval_cases i <;> simp [Nat.testBit]
  · have hp : n < 2 ^ i := lt_of_lt_of_le h (Nat.pow_le_pow_right (n := 2) (i := 16) (by decide) (by omega))
    have hb : n.testBit i = false := Nat.testBit_lt_two_pow hp
    simp only [hb, Bool.false_and]
    by_cases h12 : 12 ≤ i
    · simp [Nat.add_sub_cancel' h12, hb]
    · omega

/-- A mask of the high nibble and the low `k` bits. -/
theorem and_family_low (n k : Nat) (h : n < 65536) (hk : k ≤ 12) :
    n &&& (0xF000 ||| (2 ^ k - 1)) = n / 4096 * 4096 + n % 2 ^ k := by
  have hlt : n % 2 ^ k < 2 ^ 12 :=
    lt_of_lt_of_le (Nat.mod_lt _ (Nat.two_pow_pos k)) (Nat.pow_le_pow_right (by decide) hk)
  have hs : n / 4096 * 4096 = (n / 4096) <<< 12 := by simp [Nat.shiftLeft_eq]
  rw [Nat.and_or_distrib_left, and_family n h, Nat.and_two_pow_sub_one_eq_mod, hs,
    Nat.shiftLeft_add_eq_or_of_lt hlt]

theorem toNat_and_F000 (op : Word) : (op &&& 0xF000#16).toNat = op.toNat / 4096 * 4096 := by
  simpa using and_family op.toNat op.isLt

theorem toNat_and_F00F (op : Word) : (op &&& 0xF00F#16).toNat = op.toNat / 4096 * 4096 + op.toNat % 16 := by
  simpa using and_family_low op.toNat 4 op.isLt (by decide)

theorem toNat_and_F0FF (op : Word) : (op &&& 0xF0FF#16).toNat = op.toNat / 4096 * 4096 + op.toNat % 256 := by
  simpa using and_family_low op.toNat 8 op.isLt (by decide)

theorem toNat_and_FFFF (op : Word) : (op &&& 0xFFFF#16).toNat = op.toNat := by
  simpa using congrArg BitVec.toNat (BitVec.and_allOnes (x := op))

/-- A row selects a word when the masked number is the pattern's. -/
theorem OpcodeRow.selects_iff (r : OpcodeRow) (op : Word) :
    r.selects op = true ↔ (op &&& r.mask).toNat = r.pattern.toNat := by
  rw [BitVec.toNat_inj]
  simp [OpcodeRow.selects]

end Sys2Proof
end

