-- ==== Sys2Proof/Laws/Display.lean ====
section
/-! SUPPORT. What DRW does to one cell, and when it reports a collision (R181). -/

namespace Sys2Proof.Machine

/-- The bit a drawn sprite puts on a cell: nothing on a row it does not cover. -/
def State.spriteAt (s : State) (x0 y0 n x y : Nat) : Bool :=
  match s.spriteByte y0 n y with
  | none => false
  | some b => spriteBit b x0 x

/-- Each cell after DRW is the cell before, inverted where the sprite has a 1 (R181). -/
theorem State.drawnFb_cell (s : State) (x0 y0 n : Nat) (y : Fin 32) (x : Fin 64) :
    (s.drawnFb x0 y0 n)[y][x] = (s.fb[y][x] ^^ s.spriteAt x0 y0 n x.val y.val) := by
  cases h : s.spriteByte y0 n y.val <;> simp [State.drawnFb, State.spriteAt, h]

/-- The collision flag is set exactly when a cell that was on meets a sprite bit of 1 (R181). -/
theorem State.drawHit_iff (s : State) (x0 y0 n : Nat) :
    s.drawHit x0 y0 n = true ↔
      ∃ (y : Fin 32) (x : Fin 64), s.fb[y][x] = true ∧ s.spriteAt x0 y0 n x.val y.val = true := by
  simp only [State.drawHit, List.any_eq_true, List.mem_finRange, true_and, State.spriteAt]
  refine exists_congr fun y => ?_
  cases h : s.spriteByte y0 n y.val <;> simp

/-- Framebuffers with equal cells are equal. -/
theorem Framebuffer.ext_cells {fb fb' : Framebuffer} (h : ∀ (y : Fin 32) (x : Fin 64), fb[y][x] = fb'[y][x]) :
    fb = fb' := by
  apply Vector.ext
  intro y hy
  apply Vector.ext
  intro x hx
  exact h ⟨y, hy⟩ ⟨x, hx⟩

end Sys2Proof.Machine
end

