-- ==== Sys2Proof/Laws/Flags.lean ====
section
/-! SUPPORT. The exact computations of Flags as the arithmetic of bytes (R141). -/

namespace Sys2Proof.Machine

/-- The narrowed sum is the sum of bytes. -/
theorem sum8_eq (a b : Byte) : sum8 a b = a + b := by
  apply BitVec.eq_of_toNat_eq
  simp [sum8]

/-- The narrowed difference is the difference of bytes. -/
theorem diff8_eq (a b : Byte) : diff8 a b = a - b := by
  apply BitVec.eq_of_toNat_eq
  have := a.isLt
  have := b.isLt
  simp only [diff8, BitVec.toNat_ofNat, BitVec.toNat_sub]
  omega

/-- Halving is the logical shift right by one. -/
theorem half8_eq (a : Byte) : half8 a = a >>> 1 := by
  apply BitVec.eq_of_toNat_eq
  have := a.isLt
  simp only [half8, BitVec.toNat_ofNat, BitVec.toNat_ushiftRight, Nat.shiftRight_eq_div_pow]
  omega

/-- Doubling is the shift left by one. -/
theorem double8_eq (a : Byte) : double8 a = a <<< 1 := by
  apply BitVec.eq_of_toNat_eq
  simp [double8, Nat.shiftLeft_eq]

/-- The flag byte is 0 or 1 (R142). -/
theorem flagByte_cases (c : Bool) : (c = true ∧ flagByte c = 1) ∨ (c = false ∧ flagByte c = 0) := by
  cases c <;> simp [flagByte]

@[simp] theorem flagByte_eq_one (c : Bool) : flagByte c = 1 ↔ c = true := by
  cases c <;> simp [flagByte]

end Sys2Proof.Machine
end

