-- ==== Sys2Proof/Laws/Memory.lean ====
section
/-! SUPPORT. The laws of memory: a read after a write, and that every operation keeps the canonical form. -/

namespace Sys2Proof.Machine

/-! ### Reads -/

theorem Memory.read_insert_same (m : Memory) (a : Nat) (b : Byte) (h : ∀ c ∈ m, c.1 ≠ a) :
    (m.insert a b).read a = b := by
  induction m with
  | nil => simp [Memory.insert, Memory.read]
  | cons c m ih =>
    have hc : c.1 ≠ a := h c (by simp)
    have ih := ih fun d hd => h d (by simp [hd])
    unfold Memory.insert
    split
    · simp [Memory.read]
    · simpa [Memory.read, hc] using ih

theorem Memory.read_insert_other (m : Memory) {a a' : Nat} (b : Byte) (h : a ≠ a') :
    (m.insert a b).read a' = m.read a' := by
  induction m with
  | nil => simp [Memory.insert, Memory.read, h]
  | cons c m ih =>
    unfold Memory.insert
    split
    · simp [Memory.read, h]
    · simp [Memory.read, ih]

theorem Memory.read_filter_other (m : Memory) {a a' : Nat} (h : a ≠ a') :
    Memory.read (m.filter fun c => c.1 != a) a' = m.read a' := by
  induction m with
  | nil => rfl
  | cons c m ih =>
    by_cases hc : c.1 = a
    · have : c.1 ≠ a' := fun e => h (hc ▸ e)
      simp [hc, Memory.read, ih, h]
    · simp [hc, Memory.read, ih]

theorem Memory.read_unlisted (m : Memory) {a : Nat} (h : ∀ c ∈ m, c.1 ≠ a) :
    m.read a = Memory.background a := by
  induction m with
  | nil => rfl
  | cons c m ih =>
    have hc : c.1 ≠ a := h c (by simp)
    simpa [Memory.read, hc] using ih fun d hd => h d (by simp [hd])

/-- A read after a write to the same address gives the byte written. -/
theorem Memory.read_write_same (m : Memory) {a : Nat} (b : Byte) (h : a < Config.memSize) :
    (m.write a b).read a = b := by
  have hf : ∀ c ∈ m.filter (fun c => c.1 != a), c.1 ≠ a := by
    intro c hc
    simpa using (List.mem_filter.mp hc).2
  simp only [Memory.write, h, if_true]
  split
  · rename_i hb
    rw [Memory.read_unlisted _ hf, hb]
  · exact Memory.read_insert_same _ _ _ hf

/-- A write leaves every other address alone (R55). -/
theorem Memory.read_write_other (m : Memory) {a a' : Nat} (b : Byte) (h : a ≠ a') :
    (m.write a b).read a' = m.read a' := by
  unfold Memory.write
  split
  · dsimp only
    split
    · exact Memory.read_filter_other m h
    · rw [Memory.read_insert_other _ _ h, Memory.read_filter_other m h]
  · rfl

/-- Bytes below or above a written block are unchanged. -/
theorem Memory.read_writeBytes_outside (m : Memory) {a a' : Nat} (bs : List Byte)
    (h : a' < a ∨ a + bs.length ≤ a') : (m.writeBytes a bs).read a' = m.read a' := by
  induction bs generalizing m a with
  | nil => rfl
  | cons b bs ih =>
    simp only [List.length_cons] at h
    rw [Memory.writeBytes, ih _ (by omega), Memory.read_write_other _ _ (by omega)]

/-- Byte `j` of a written block reads as byte `j` of the list. -/
theorem Memory.read_writeBytes_inside (m : Memory) (a : Nat) (bs : List Byte) (j : Nat)
    (hj : j < bs.length) (h : a + j < Config.memSize) : (m.writeBytes a bs).read (a + j) = bs[j] := by
  induction bs generalizing m a j with
  | nil => simp at hj
  | cons b bs ih =>
    cases j with
    | zero =>
      rw [Memory.writeBytes, Memory.read_writeBytes_outside _ _ (by omega)]
      exact Memory.read_write_same _ _ (by simpa using h)
    | succ j =>
      have := ih (m.write a b) (a + 1) j (by simpa using hj) (by omega)
      rw [show a + (j + 1) = a + 1 + j by omega]
      simpa [Memory.writeBytes] using this

/-! ### The canonical form -/

theorem Memory.wf_nil : Memory.wf [] := by simp [Memory.wf]

theorem Memory.mem_insert {m : Memory} {a : Nat} {b : Byte} {c : Host.Cell} (h : c ∈ m.insert a b) :
    c = (a, b) ∨ c ∈ m := by
  induction m with
  | nil => simpa [Memory.insert] using h
  | cons d m ih =>
    unfold Memory.insert at h
    split at h
    · simpa using h
    · rcases List.mem_cons.mp h with h | h
      · exact .inr (by simp [h])
      · rcases ih h with h | h
        · exact .inl h
        · exact .inr (by simp [h])

theorem Memory.sorted_insert (m : Memory) (a : Nat) (b : Byte) (hs : m.Pairwise (fun c d => c.1 < d.1))
    (h : ∀ c ∈ m, c.1 ≠ a) : (m.insert a b).Pairwise (fun c d => c.1 < d.1) := by
  induction m with
  | nil => simp [Memory.insert]
  | cons c m ih =>
    have hc : c.1 ≠ a := h c (by simp)
    rw [List.pairwise_cons] at hs
    unfold Memory.insert
    split
    · rename_i hlt
      refine List.pairwise_cons.mpr ⟨?_, List.pairwise_cons.mpr hs⟩
      intro d hd
      rcases List.mem_cons.mp hd with rfl | hd
      · exact hlt
      · exact lt_trans hlt (hs.1 d hd)
    · rename_i hlt
      refine List.pairwise_cons.mpr ⟨?_, ih hs.2 fun d hd => h d (by simp [hd])⟩
      intro d hd
      rcases Memory.mem_insert hd with rfl | hd
      · simp only at hlt ⊢
        omega
      · exact hs.1 d hd

/-- A write keeps the canonical form. -/
theorem Memory.wf_write {m : Memory} (h : m.wf) (a : Nat) (b : Byte) : (m.write a b).wf := by
  unfold Memory.write
  split
  · rename_i ha
    have hs : (m.filter fun c => c.1 != a).Pairwise (fun c d => c.1 < d.1) := h.1.filter _
    have hm : ∀ c ∈ m.filter (fun c => c.1 != a), c.1 ≠ a := by
      intro c hc
      simpa using (List.mem_filter.mp hc).2
    have hb : ∀ c ∈ m.filter (fun c => c.1 != a), c.1 < Config.memSize ∧ c.2 ≠ Memory.background c.1 :=
      fun c hc => h.2 c (List.mem_filter.mp hc).1
    dsimp only
    split
    · exact ⟨hs, hb⟩
    · rename_i hne
      refine ⟨Memory.sorted_insert _ _ _ hs hm, ?_⟩
      intro c hc
      rcases Memory.mem_insert hc with rfl | hc
      · exact ⟨ha, hne⟩
      · exact hb c hc
  · exact h

/-- Writing a block keeps the canonical form. -/
theorem Memory.wf_writeBytes {m : Memory} (h : m.wf) (a : Nat) (bs : List Byte) : (m.writeBytes a bs).wf := by
  induction bs generalizing m a with
  | nil => exact h
  | cons b bs ih => exact ih (Memory.wf_write h a b) (a + 1)

/-- Memories in canonical form that read alike at every address are the same list. -/
theorem Memory.ext_of_read {m m' : Memory} (h : m.wf) (h' : m'.wf) (hr : ∀ a, m.read a = m'.read a) : m = m' := by
  have below : ∀ {n : Memory} {k : Nat}, (∀ c ∈ n, k < c.1) → n.read k = Memory.background k := by
    intro n k hn
    exact Memory.read_unlisted _ fun c hc => by have := hn c hc; omega
  induction m generalizing m' with
  | nil =>
    cases m' with
    | nil => rfl
    | cons d m' =>
      have := hr d.1
      simp only [Memory.read] at this
      exact absurd this.symm (by simpa [Memory.read] using (h'.2 d (by simp)).2)
  | cons c m ih =>
    have hc := h.2 c (by simp)
    have hcm := List.pairwise_cons.mp h.1
    cases m' with
    | nil =>
      have := hr c.1
      simp only [Memory.read, if_true] at this
      exact absurd this hc.2
    | cons d m' =>
      have hd := h'.2 d (by simp)
      have hdm := List.pairwise_cons.mp h'.1
      have key : c.1 = d.1 := by
        rcases lt_trichotomy c.1 d.1 with hlt | heq | hgt
        · have hrc := hr c.1
          simp only [Memory.read, if_true] at hrc
          rw [if_neg (by omega), below fun e he => lt_trans hlt (hdm.1 e he)] at hrc
          exact absurd hrc hc.2
        · exact heq
        · have hrd := hr d.1
          simp only [Memory.read, if_true] at hrd
          rw [if_neg (by omega), below fun e he => lt_trans hgt (hcm.1 e he)] at hrd
          exact absurd hrd.symm hd.2
      have val : c.2 = d.2 := by
        have hrc := hr c.1
        simpa [Memory.read, key] using hrc
      have tail : m = m' := by
        refine ih ⟨hcm.2, fun e he => h.2 e (by simp [he])⟩ ⟨hdm.2, fun e he => h'.2 e (by simp [he])⟩ ?_
        intro a
        have hra := hr a
        by_cases hca : c.1 = a
        · subst hca
          rw [below fun e he => hcm.1 e he, below fun e he => key ▸ hdm.1 e he]
        · simpa [Memory.read, hca, key ▸ hca] using hra
      rw [tail, Prod.ext key val]

end Sys2Proof.Machine
end

