-- ==== Sys2Proof/Laws/State.lean ====
section
/-! SUPPORT. One lemma per field per named update of State, true by rfl, so that no proof unfolds a record update. -/

namespace Sys2Proof.Machine

variable (s : State)

/-! ### `setV` -/

@[simp] theorem State.setV_mem (x : Reg) (b : Byte) : (s.setV x b).mem = s.mem := rfl
@[simp] theorem State.setV_v (x : Reg) (b : Byte) : (s.setV x b).v = s.v.set x b := rfl
@[simp] theorem State.setV_i (x : Reg) (b : Byte) : (s.setV x b).i = s.i := rfl
@[simp] theorem State.setV_pc (x : Reg) (b : Byte) : (s.setV x b).pc = s.pc := rfl
@[simp] theorem State.setV_stack (x : Reg) (b : Byte) : (s.setV x b).stack = s.stack := rfl
@[simp] theorem State.setV_sp (x : Reg) (b : Byte) : (s.setV x b).sp = s.sp := rfl
@[simp] theorem State.setV_dt (x : Reg) (b : Byte) : (s.setV x b).dt = s.dt := rfl
@[simp] theorem State.setV_fb (x : Reg) (b : Byte) : (s.setV x b).fb = s.fb := rfl
@[simp] theorem State.setV_key (x : Reg) (b : Byte) : (s.setV x b).key = s.key := rfl
@[simp] theorem State.setV_awaitValid (x : Reg) (b : Byte) : (s.setV x b).awaitValid = s.awaitValid := rfl
@[simp] theorem State.setV_awaitKey (x : Reg) (b : Byte) : (s.setV x b).awaitKey = s.awaitKey := rfl
@[simp] theorem State.setV_runState (x : Reg) (b : Byte) : (s.setV x b).runState = s.runState := rfl
@[simp] theorem State.setV_fault (x : Reg) (b : Byte) : (s.setV x b).fault = s.fault := rfl
@[simp] theorem State.setV_cfg (x : Reg) (b : Byte) : (s.setV x b).cfg = s.cfg := rfl
@[simp] theorem State.setV_draw (x : Reg) (b : Byte) : (s.setV x b).draw = s.draw := rfl
@[simp] theorem State.setV_agenda (x : Reg) (b : Byte) : (s.setV x b).agenda = s.agenda := rfl
@[simp] theorem State.setV_plan (x : Reg) (b : Byte) : (s.setV x b).plan = s.plan := rfl
@[simp] theorem State.setV_font (x : Reg) (b : Byte) : (s.setV x b).font = s.font := rfl

/-! ### `setVF` -/

@[simp] theorem State.setVF_mem (b : Byte) : (s.setVF b).mem = s.mem := rfl
@[simp] theorem State.setVF_v (b : Byte) : (s.setVF b).v = s.v.set 15 b := rfl
@[simp] theorem State.setVF_i (b : Byte) : (s.setVF b).i = s.i := rfl
@[simp] theorem State.setVF_pc (b : Byte) : (s.setVF b).pc = s.pc := rfl
@[simp] theorem State.setVF_stack (b : Byte) : (s.setVF b).stack = s.stack := rfl
@[simp] theorem State.setVF_sp (b : Byte) : (s.setVF b).sp = s.sp := rfl
@[simp] theorem State.setVF_dt (b : Byte) : (s.setVF b).dt = s.dt := rfl
@[simp] theorem State.setVF_fb (b : Byte) : (s.setVF b).fb = s.fb := rfl
@[simp] theorem State.setVF_key (b : Byte) : (s.setVF b).key = s.key := rfl
@[simp] theorem State.setVF_awaitValid (b : Byte) : (s.setVF b).awaitValid = s.awaitValid := rfl
@[simp] theorem State.setVF_awaitKey (b : Byte) : (s.setVF b).awaitKey = s.awaitKey := rfl
@[simp] theorem State.setVF_runState (b : Byte) : (s.setVF b).runState = s.runState := rfl
@[simp] theorem State.setVF_fault (b : Byte) : (s.setVF b).fault = s.fault := rfl
@[simp] theorem State.setVF_cfg (b : Byte) : (s.setVF b).cfg = s.cfg := rfl
@[simp] theorem State.setVF_draw (b : Byte) : (s.setVF b).draw = s.draw := rfl
@[simp] theorem State.setVF_agenda (b : Byte) : (s.setVF b).agenda = s.agenda := rfl
@[simp] theorem State.setVF_plan (b : Byte) : (s.setVF b).plan = s.plan := rfl
@[simp] theorem State.setVF_font (b : Byte) : (s.setVF b).font = s.font := rfl

/-! ### `setAllV` -/

@[simp] theorem State.setAllV_mem (v : Vector Byte 16) : (s.setAllV v).mem = s.mem := rfl
@[simp] theorem State.setAllV_v (v : Vector Byte 16) : (s.setAllV v).v = v := rfl
@[simp] theorem State.setAllV_i (v : Vector Byte 16) : (s.setAllV v).i = s.i := rfl
@[simp] theorem State.setAllV_pc (v : Vector Byte 16) : (s.setAllV v).pc = s.pc := rfl
@[simp] theorem State.setAllV_stack (v : Vector Byte 16) : (s.setAllV v).stack = s.stack := rfl
@[simp] theorem State.setAllV_sp (v : Vector Byte 16) : (s.setAllV v).sp = s.sp := rfl
@[simp] theorem State.setAllV_dt (v : Vector Byte 16) : (s.setAllV v).dt = s.dt := rfl
@[simp] theorem State.setAllV_fb (v : Vector Byte 16) : (s.setAllV v).fb = s.fb := rfl
@[simp] theorem State.setAllV_key (v : Vector Byte 16) : (s.setAllV v).key = s.key := rfl
@[simp] theorem State.setAllV_awaitValid (v : Vector Byte 16) : (s.setAllV v).awaitValid = s.awaitValid := rfl
@[simp] theorem State.setAllV_awaitKey (v : Vector Byte 16) : (s.setAllV v).awaitKey = s.awaitKey := rfl
@[simp] theorem State.setAllV_runState (v : Vector Byte 16) : (s.setAllV v).runState = s.runState := rfl
@[simp] theorem State.setAllV_fault (v : Vector Byte 16) : (s.setAllV v).fault = s.fault := rfl
@[simp] theorem State.setAllV_cfg (v : Vector Byte 16) : (s.setAllV v).cfg = s.cfg := rfl
@[simp] theorem State.setAllV_draw (v : Vector Byte 16) : (s.setAllV v).draw = s.draw := rfl
@[simp] theorem State.setAllV_agenda (v : Vector Byte 16) : (s.setAllV v).agenda = s.agenda := rfl
@[simp] theorem State.setAllV_plan (v : Vector Byte 16) : (s.setAllV v).plan = s.plan := rfl
@[simp] theorem State.setAllV_font (v : Vector Byte 16) : (s.setAllV v).font = s.font := rfl

/-! ### `setI` -/

@[simp] theorem State.setI_mem (n : Nat) : (s.setI n).mem = s.mem := rfl
@[simp] theorem State.setI_v (n : Nat) : (s.setI n).v = s.v := rfl
@[simp] theorem State.setI_i (n : Nat) : (s.setI n).i = BitVec.ofNat 16 n := rfl
@[simp] theorem State.setI_pc (n : Nat) : (s.setI n).pc = s.pc := rfl
@[simp] theorem State.setI_stack (n : Nat) : (s.setI n).stack = s.stack := rfl
@[simp] theorem State.setI_sp (n : Nat) : (s.setI n).sp = s.sp := rfl
@[simp] theorem State.setI_dt (n : Nat) : (s.setI n).dt = s.dt := rfl
@[simp] theorem State.setI_fb (n : Nat) : (s.setI n).fb = s.fb := rfl
@[simp] theorem State.setI_key (n : Nat) : (s.setI n).key = s.key := rfl
@[simp] theorem State.setI_awaitValid (n : Nat) : (s.setI n).awaitValid = s.awaitValid := rfl
@[simp] theorem State.setI_awaitKey (n : Nat) : (s.setI n).awaitKey = s.awaitKey := rfl
@[simp] theorem State.setI_runState (n : Nat) : (s.setI n).runState = s.runState := rfl
@[simp] theorem State.setI_fault (n : Nat) : (s.setI n).fault = s.fault := rfl
@[simp] theorem State.setI_cfg (n : Nat) : (s.setI n).cfg = s.cfg := rfl
@[simp] theorem State.setI_draw (n : Nat) : (s.setI n).draw = s.draw := rfl
@[simp] theorem State.setI_agenda (n : Nat) : (s.setI n).agenda = s.agenda := rfl
@[simp] theorem State.setI_plan (n : Nat) : (s.setI n).plan = s.plan := rfl
@[simp] theorem State.setI_font (n : Nat) : (s.setI n).font = s.font := rfl

/-! ### `setPc` -/

@[simp] theorem State.setPc_mem (n : Nat) : (s.setPc n).mem = s.mem := rfl
@[simp] theorem State.setPc_v (n : Nat) : (s.setPc n).v = s.v := rfl
@[simp] theorem State.setPc_i (n : Nat) : (s.setPc n).i = s.i := rfl
@[simp] theorem State.setPc_pc (n : Nat) : (s.setPc n).pc = BitVec.ofNat 16 (n % 4096) := rfl
@[simp] theorem State.setPc_stack (n : Nat) : (s.setPc n).stack = s.stack := rfl
@[simp] theorem State.setPc_sp (n : Nat) : (s.setPc n).sp = s.sp := rfl
@[simp] theorem State.setPc_dt (n : Nat) : (s.setPc n).dt = s.dt := rfl
@[simp] theorem State.setPc_fb (n : Nat) : (s.setPc n).fb = s.fb := rfl
@[simp] theorem State.setPc_key (n : Nat) : (s.setPc n).key = s.key := rfl
@[simp] theorem State.setPc_awaitValid (n : Nat) : (s.setPc n).awaitValid = s.awaitValid := rfl
@[simp] theorem State.setPc_awaitKey (n : Nat) : (s.setPc n).awaitKey = s.awaitKey := rfl
@[simp] theorem State.setPc_runState (n : Nat) : (s.setPc n).runState = s.runState := rfl
@[simp] theorem State.setPc_fault (n : Nat) : (s.setPc n).fault = s.fault := rfl
@[simp] theorem State.setPc_cfg (n : Nat) : (s.setPc n).cfg = s.cfg := rfl
@[simp] theorem State.setPc_draw (n : Nat) : (s.setPc n).draw = s.draw := rfl
@[simp] theorem State.setPc_agenda (n : Nat) : (s.setPc n).agenda = s.agenda := rfl
@[simp] theorem State.setPc_plan (n : Nat) : (s.setPc n).plan = s.plan := rfl
@[simp] theorem State.setPc_font (n : Nat) : (s.setPc n).font = s.font := rfl

/-! ### `advance` -/

@[simp] theorem State.advance_mem : (s.advance).mem = s.mem := rfl
@[simp] theorem State.advance_v : (s.advance).v = s.v := rfl
@[simp] theorem State.advance_i : (s.advance).i = s.i := rfl
@[simp] theorem State.advance_pc : (s.advance).pc = BitVec.ofNat 16 ((s.pc.toNat + 2) % 4096) := rfl
@[simp] theorem State.advance_stack : (s.advance).stack = s.stack := rfl
@[simp] theorem State.advance_sp : (s.advance).sp = s.sp := rfl
@[simp] theorem State.advance_dt : (s.advance).dt = s.dt := rfl
@[simp] theorem State.advance_fb : (s.advance).fb = s.fb := rfl
@[simp] theorem State.advance_key : (s.advance).key = s.key := rfl
@[simp] theorem State.advance_awaitValid : (s.advance).awaitValid = s.awaitValid := rfl
@[simp] theorem State.advance_awaitKey : (s.advance).awaitKey = s.awaitKey := rfl
@[simp] theorem State.advance_runState : (s.advance).runState = s.runState := rfl
@[simp] theorem State.advance_fault : (s.advance).fault = s.fault := rfl
@[simp] theorem State.advance_cfg : (s.advance).cfg = s.cfg := rfl
@[simp] theorem State.advance_draw : (s.advance).draw = s.draw := rfl
@[simp] theorem State.advance_agenda : (s.advance).agenda = s.agenda := rfl
@[simp] theorem State.advance_plan : (s.advance).plan = s.plan := rfl
@[simp] theorem State.advance_font : (s.advance).font = s.font := rfl

/-! ### `push` -/

@[simp] theorem State.push_mem (h : s.sp.val < Config.stackCap) (w : Word) : (s.push h w).mem = s.mem := rfl
@[simp] theorem State.push_v (h : s.sp.val < Config.stackCap) (w : Word) : (s.push h w).v = s.v := rfl
@[simp] theorem State.push_i (h : s.sp.val < Config.stackCap) (w : Word) : (s.push h w).i = s.i := rfl
@[simp] theorem State.push_pc (h : s.sp.val < Config.stackCap) (w : Word) : (s.push h w).pc = s.pc := rfl
@[simp] theorem State.push_stack (h : s.sp.val < Config.stackCap) (w : Word) : (s.push h w).stack = s.stack.set s.sp.val w h := rfl
@[simp] theorem State.push_dt (h : s.sp.val < Config.stackCap) (w : Word) : (s.push h w).dt = s.dt := rfl
@[simp] theorem State.push_fb (h : s.sp.val < Config.stackCap) (w : Word) : (s.push h w).fb = s.fb := rfl
@[simp] theorem State.push_key (h : s.sp.val < Config.stackCap) (w : Word) : (s.push h w).key = s.key := rfl
@[simp] theorem State.push_awaitValid (h : s.sp.val < Config.stackCap) (w : Word) : (s.push h w).awaitValid = s.awaitValid := rfl
@[simp] theorem State.push_awaitKey (h : s.sp.val < Config.stackCap) (w : Word) : (s.push h w).awaitKey = s.awaitKey := rfl
@[simp] theorem State.push_runState (h : s.sp.val < Config.stackCap) (w : Word) : (s.push h w).runState = s.runState := rfl
@[simp] theorem State.push_fault (h : s.sp.val < Config.stackCap) (w : Word) : (s.push h w).fault = s.fault := rfl
@[simp] theorem State.push_cfg (h : s.sp.val < Config.stackCap) (w : Word) : (s.push h w).cfg = s.cfg := rfl
@[simp] theorem State.push_draw (h : s.sp.val < Config.stackCap) (w : Word) : (s.push h w).draw = s.draw := rfl
@[simp] theorem State.push_agenda (h : s.sp.val < Config.stackCap) (w : Word) : (s.push h w).agenda = s.agenda := rfl
@[simp] theorem State.push_plan (h : s.sp.val < Config.stackCap) (w : Word) : (s.push h w).plan = s.plan := rfl
@[simp] theorem State.push_font (h : s.sp.val < Config.stackCap) (w : Word) : (s.push h w).font = s.font := rfl
@[simp] theorem State.push_sp (h : s.sp.val < Config.stackCap) (w : Word) : (s.push h w).sp.val = s.sp.val + 1 := rfl

/-! ### `drop` -/

@[simp] theorem State.drop_mem (h : 0 < s.sp.val) : (s.drop h).mem = s.mem := rfl
@[simp] theorem State.drop_v (h : 0 < s.sp.val) : (s.drop h).v = s.v := rfl
@[simp] theorem State.drop_i (h : 0 < s.sp.val) : (s.drop h).i = s.i := rfl
@[simp] theorem State.drop_pc (h : 0 < s.sp.val) : (s.drop h).pc = s.pc := rfl
@[simp] theorem State.drop_stack (h : 0 < s.sp.val) : (s.drop h).stack = s.stack := rfl
@[simp] theorem State.drop_dt (h : 0 < s.sp.val) : (s.drop h).dt = s.dt := rfl
@[simp] theorem State.drop_fb (h : 0 < s.sp.val) : (s.drop h).fb = s.fb := rfl
@[simp] theorem State.drop_key (h : 0 < s.sp.val) : (s.drop h).key = s.key := rfl
@[simp] theorem State.drop_awaitValid (h : 0 < s.sp.val) : (s.drop h).awaitValid = s.awaitValid := rfl
@[simp] theorem State.drop_awaitKey (h : 0 < s.sp.val) : (s.drop h).awaitKey = s.awaitKey := rfl
@[simp] theorem State.drop_runState (h : 0 < s.sp.val) : (s.drop h).runState = s.runState := rfl
@[simp] theorem State.drop_fault (h : 0 < s.sp.val) : (s.drop h).fault = s.fault := rfl
@[simp] theorem State.drop_cfg (h : 0 < s.sp.val) : (s.drop h).cfg = s.cfg := rfl
@[simp] theorem State.drop_draw (h : 0 < s.sp.val) : (s.drop h).draw = s.draw := rfl
@[simp] theorem State.drop_agenda (h : 0 < s.sp.val) : (s.drop h).agenda = s.agenda := rfl
@[simp] theorem State.drop_plan (h : 0 < s.sp.val) : (s.drop h).plan = s.plan := rfl
@[simp] theorem State.drop_font (h : 0 < s.sp.val) : (s.drop h).font = s.font := rfl
@[simp] theorem State.drop_sp (h : 0 < s.sp.val) : (s.drop h).sp.val = s.sp.val - 1 := rfl

/-! ### `writeBytes` -/

@[simp] theorem State.writeBytes_mem (a : Nat) (bs : List Byte) : (s.writeBytes a bs).mem = s.mem.writeBytes a bs := rfl
@[simp] theorem State.writeBytes_v (a : Nat) (bs : List Byte) : (s.writeBytes a bs).v = s.v := rfl
@[simp] theorem State.writeBytes_i (a : Nat) (bs : List Byte) : (s.writeBytes a bs).i = s.i := rfl
@[simp] theorem State.writeBytes_pc (a : Nat) (bs : List Byte) : (s.writeBytes a bs).pc = s.pc := rfl
@[simp] theorem State.writeBytes_stack (a : Nat) (bs : List Byte) : (s.writeBytes a bs).stack = s.stack := rfl
@[simp] theorem State.writeBytes_sp (a : Nat) (bs : List Byte) : (s.writeBytes a bs).sp = s.sp := rfl
@[simp] theorem State.writeBytes_dt (a : Nat) (bs : List Byte) : (s.writeBytes a bs).dt = s.dt := rfl
@[simp] theorem State.writeBytes_fb (a : Nat) (bs : List Byte) : (s.writeBytes a bs).fb = s.fb := rfl
@[simp] theorem State.writeBytes_key (a : Nat) (bs : List Byte) : (s.writeBytes a bs).key = s.key := rfl
@[simp] theorem State.writeBytes_awaitValid (a : Nat) (bs : List Byte) : (s.writeBytes a bs).awaitValid = s.awaitValid := rfl
@[simp] theorem State.writeBytes_awaitKey (a : Nat) (bs : List Byte) : (s.writeBytes a bs).awaitKey = s.awaitKey := rfl
@[simp] theorem State.writeBytes_runState (a : Nat) (bs : List Byte) : (s.writeBytes a bs).runState = s.runState := rfl
@[simp] theorem State.writeBytes_fault (a : Nat) (bs : List Byte) : (s.writeBytes a bs).fault = s.fault := rfl
@[simp] theorem State.writeBytes_cfg (a : Nat) (bs : List Byte) : (s.writeBytes a bs).cfg = s.cfg := rfl
@[simp] theorem State.writeBytes_draw (a : Nat) (bs : List Byte) : (s.writeBytes a bs).draw = s.draw := rfl
@[simp] theorem State.writeBytes_agenda (a : Nat) (bs : List Byte) : (s.writeBytes a bs).agenda = s.agenda := rfl
@[simp] theorem State.writeBytes_plan (a : Nat) (bs : List Byte) : (s.writeBytes a bs).plan = s.plan := rfl
@[simp] theorem State.writeBytes_font (a : Nat) (bs : List Byte) : (s.writeBytes a bs).font = s.font := rfl

/-! ### `setDt` -/

@[simp] theorem State.setDt_mem (b : Byte) : (s.setDt b).mem = s.mem := rfl
@[simp] theorem State.setDt_v (b : Byte) : (s.setDt b).v = s.v := rfl
@[simp] theorem State.setDt_i (b : Byte) : (s.setDt b).i = s.i := rfl
@[simp] theorem State.setDt_pc (b : Byte) : (s.setDt b).pc = s.pc := rfl
@[simp] theorem State.setDt_stack (b : Byte) : (s.setDt b).stack = s.stack := rfl
@[simp] theorem State.setDt_sp (b : Byte) : (s.setDt b).sp = s.sp := rfl
@[simp] theorem State.setDt_dt (b : Byte) : (s.setDt b).dt = b := rfl
@[simp] theorem State.setDt_fb (b : Byte) : (s.setDt b).fb = s.fb := rfl
@[simp] theorem State.setDt_key (b : Byte) : (s.setDt b).key = s.key := rfl
@[simp] theorem State.setDt_awaitValid (b : Byte) : (s.setDt b).awaitValid = s.awaitValid := rfl
@[simp] theorem State.setDt_awaitKey (b : Byte) : (s.setDt b).awaitKey = s.awaitKey := rfl
@[simp] theorem State.setDt_runState (b : Byte) : (s.setDt b).runState = s.runState := rfl
@[simp] theorem State.setDt_fault (b : Byte) : (s.setDt b).fault = s.fault := rfl
@[simp] theorem State.setDt_cfg (b : Byte) : (s.setDt b).cfg = s.cfg := rfl
@[simp] theorem State.setDt_draw (b : Byte) : (s.setDt b).draw = s.draw := rfl
@[simp] theorem State.setDt_agenda (b : Byte) : (s.setDt b).agenda = s.agenda := rfl
@[simp] theorem State.setDt_plan (b : Byte) : (s.setDt b).plan = s.plan := rfl
@[simp] theorem State.setDt_font (b : Byte) : (s.setDt b).font = s.font := rfl

/-! ### `setFb` -/

@[simp] theorem State.setFb_mem (fb : Framebuffer) : (s.setFb fb).mem = s.mem := rfl
@[simp] theorem State.setFb_v (fb : Framebuffer) : (s.setFb fb).v = s.v := rfl
@[simp] theorem State.setFb_i (fb : Framebuffer) : (s.setFb fb).i = s.i := rfl
@[simp] theorem State.setFb_pc (fb : Framebuffer) : (s.setFb fb).pc = s.pc := rfl
@[simp] theorem State.setFb_stack (fb : Framebuffer) : (s.setFb fb).stack = s.stack := rfl
@[simp] theorem State.setFb_sp (fb : Framebuffer) : (s.setFb fb).sp = s.sp := rfl
@[simp] theorem State.setFb_dt (fb : Framebuffer) : (s.setFb fb).dt = s.dt := rfl
@[simp] theorem State.setFb_fb (fb : Framebuffer) : (s.setFb fb).fb = fb := rfl
@[simp] theorem State.setFb_key (fb : Framebuffer) : (s.setFb fb).key = s.key := rfl
@[simp] theorem State.setFb_awaitValid (fb : Framebuffer) : (s.setFb fb).awaitValid = s.awaitValid := rfl
@[simp] theorem State.setFb_awaitKey (fb : Framebuffer) : (s.setFb fb).awaitKey = s.awaitKey := rfl
@[simp] theorem State.setFb_runState (fb : Framebuffer) : (s.setFb fb).runState = s.runState := rfl
@[simp] theorem State.setFb_fault (fb : Framebuffer) : (s.setFb fb).fault = s.fault := rfl
@[simp] theorem State.setFb_cfg (fb : Framebuffer) : (s.setFb fb).cfg = s.cfg := rfl
@[simp] theorem State.setFb_draw (fb : Framebuffer) : (s.setFb fb).draw = s.draw := rfl
@[simp] theorem State.setFb_agenda (fb : Framebuffer) : (s.setFb fb).agenda = s.agenda := rfl
@[simp] theorem State.setFb_plan (fb : Framebuffer) : (s.setFb fb).plan = s.plan := rfl
@[simp] theorem State.setFb_font (fb : Framebuffer) : (s.setFb fb).font = s.font := rfl

/-! ### `setKey` -/

@[simp] theorem State.setKey_mem (latch : KeyLatch) : (s.setKey latch).mem = s.mem := rfl
@[simp] theorem State.setKey_v (latch : KeyLatch) : (s.setKey latch).v = s.v := rfl
@[simp] theorem State.setKey_i (latch : KeyLatch) : (s.setKey latch).i = s.i := rfl
@[simp] theorem State.setKey_pc (latch : KeyLatch) : (s.setKey latch).pc = s.pc := rfl
@[simp] theorem State.setKey_stack (latch : KeyLatch) : (s.setKey latch).stack = s.stack := rfl
@[simp] theorem State.setKey_sp (latch : KeyLatch) : (s.setKey latch).sp = s.sp := rfl
@[simp] theorem State.setKey_dt (latch : KeyLatch) : (s.setKey latch).dt = s.dt := rfl
@[simp] theorem State.setKey_fb (latch : KeyLatch) : (s.setKey latch).fb = s.fb := rfl
@[simp] theorem State.setKey_key (latch : KeyLatch) : (s.setKey latch).key = latch := rfl
@[simp] theorem State.setKey_awaitValid (latch : KeyLatch) : (s.setKey latch).awaitValid = s.awaitValid := rfl
@[simp] theorem State.setKey_awaitKey (latch : KeyLatch) : (s.setKey latch).awaitKey = s.awaitKey := rfl
@[simp] theorem State.setKey_runState (latch : KeyLatch) : (s.setKey latch).runState = s.runState := rfl
@[simp] theorem State.setKey_fault (latch : KeyLatch) : (s.setKey latch).fault = s.fault := rfl
@[simp] theorem State.setKey_cfg (latch : KeyLatch) : (s.setKey latch).cfg = s.cfg := rfl
@[simp] theorem State.setKey_draw (latch : KeyLatch) : (s.setKey latch).draw = s.draw := rfl
@[simp] theorem State.setKey_agenda (latch : KeyLatch) : (s.setKey latch).agenda = s.agenda := rfl
@[simp] theorem State.setKey_plan (latch : KeyLatch) : (s.setKey latch).plan = s.plan := rfl
@[simp] theorem State.setKey_font (latch : KeyLatch) : (s.setKey latch).font = s.font := rfl

/-! ### `beginAwait` -/

@[simp] theorem State.beginAwait_mem (k : Key) : (s.beginAwait k).mem = s.mem := rfl
@[simp] theorem State.beginAwait_v (k : Key) : (s.beginAwait k).v = s.v := rfl
@[simp] theorem State.beginAwait_i (k : Key) : (s.beginAwait k).i = s.i := rfl
@[simp] theorem State.beginAwait_pc (k : Key) : (s.beginAwait k).pc = s.pc := rfl
@[simp] theorem State.beginAwait_stack (k : Key) : (s.beginAwait k).stack = s.stack := rfl
@[simp] theorem State.beginAwait_sp (k : Key) : (s.beginAwait k).sp = s.sp := rfl
@[simp] theorem State.beginAwait_dt (k : Key) : (s.beginAwait k).dt = s.dt := rfl
@[simp] theorem State.beginAwait_fb (k : Key) : (s.beginAwait k).fb = s.fb := rfl
@[simp] theorem State.beginAwait_key (k : Key) : (s.beginAwait k).key = s.key := rfl
@[simp] theorem State.beginAwait_awaitValid (k : Key) : (s.beginAwait k).awaitValid = true := rfl
@[simp] theorem State.beginAwait_awaitKey (k : Key) : (s.beginAwait k).awaitKey = k := rfl
@[simp] theorem State.beginAwait_runState (k : Key) : (s.beginAwait k).runState = s.runState := rfl
@[simp] theorem State.beginAwait_fault (k : Key) : (s.beginAwait k).fault = s.fault := rfl
@[simp] theorem State.beginAwait_cfg (k : Key) : (s.beginAwait k).cfg = s.cfg := rfl
@[simp] theorem State.beginAwait_draw (k : Key) : (s.beginAwait k).draw = s.draw := rfl
@[simp] theorem State.beginAwait_agenda (k : Key) : (s.beginAwait k).agenda = s.agenda := rfl
@[simp] theorem State.beginAwait_plan (k : Key) : (s.beginAwait k).plan = s.plan := rfl
@[simp] theorem State.beginAwait_font (k : Key) : (s.beginAwait k).font = s.font := rfl

/-! ### `endAwait` -/

@[simp] theorem State.endAwait_mem : (s.endAwait).mem = s.mem := rfl
@[simp] theorem State.endAwait_v : (s.endAwait).v = s.v := rfl
@[simp] theorem State.endAwait_i : (s.endAwait).i = s.i := rfl
@[simp] theorem State.endAwait_pc : (s.endAwait).pc = s.pc := rfl
@[simp] theorem State.endAwait_stack : (s.endAwait).stack = s.stack := rfl
@[simp] theorem State.endAwait_sp : (s.endAwait).sp = s.sp := rfl
@[simp] theorem State.endAwait_dt : (s.endAwait).dt = s.dt := rfl
@[simp] theorem State.endAwait_fb : (s.endAwait).fb = s.fb := rfl
@[simp] theorem State.endAwait_key : (s.endAwait).key = s.key := rfl
@[simp] theorem State.endAwait_awaitValid : (s.endAwait).awaitValid = false := rfl
@[simp] theorem State.endAwait_awaitKey : (s.endAwait).awaitKey = s.awaitKey := rfl
@[simp] theorem State.endAwait_runState : (s.endAwait).runState = s.runState := rfl
@[simp] theorem State.endAwait_fault : (s.endAwait).fault = s.fault := rfl
@[simp] theorem State.endAwait_cfg : (s.endAwait).cfg = s.cfg := rfl
@[simp] theorem State.endAwait_draw : (s.endAwait).draw = s.draw := rfl
@[simp] theorem State.endAwait_agenda : (s.endAwait).agenda = s.agenda := rfl
@[simp] theorem State.endAwait_plan : (s.endAwait).plan = s.plan := rfl
@[simp] theorem State.endAwait_font : (s.endAwait).font = s.font := rfl

/-! ### `putRunState` -/

@[simp] theorem State.putRunState_mem (r : RunState) : (s.putRunState r).mem = s.mem := rfl
@[simp] theorem State.putRunState_v (r : RunState) : (s.putRunState r).v = s.v := rfl
@[simp] theorem State.putRunState_i (r : RunState) : (s.putRunState r).i = s.i := rfl
@[simp] theorem State.putRunState_pc (r : RunState) : (s.putRunState r).pc = s.pc := rfl
@[simp] theorem State.putRunState_stack (r : RunState) : (s.putRunState r).stack = s.stack := rfl
@[simp] theorem State.putRunState_sp (r : RunState) : (s.putRunState r).sp = s.sp := rfl
@[simp] theorem State.putRunState_dt (r : RunState) : (s.putRunState r).dt = s.dt := rfl
@[simp] theorem State.putRunState_fb (r : RunState) : (s.putRunState r).fb = s.fb := rfl
@[simp] theorem State.putRunState_key (r : RunState) : (s.putRunState r).key = s.key := rfl
@[simp] theorem State.putRunState_awaitValid (r : RunState) : (s.putRunState r).awaitValid = s.awaitValid := rfl
@[simp] theorem State.putRunState_awaitKey (r : RunState) : (s.putRunState r).awaitKey = s.awaitKey := rfl
@[simp] theorem State.putRunState_runState (r : RunState) : (s.putRunState r).runState = r := rfl
@[simp] theorem State.putRunState_fault (r : RunState) : (s.putRunState r).fault = s.fault := rfl
@[simp] theorem State.putRunState_cfg (r : RunState) : (s.putRunState r).cfg = s.cfg := rfl
@[simp] theorem State.putRunState_draw (r : RunState) : (s.putRunState r).draw = s.draw := rfl
@[simp] theorem State.putRunState_agenda (r : RunState) : (s.putRunState r).agenda = s.agenda := rfl
@[simp] theorem State.putRunState_plan (r : RunState) : (s.putRunState r).plan = s.plan := rfl
@[simp] theorem State.putRunState_font (r : RunState) : (s.putRunState r).font = s.font := rfl

/-! ### `nextDraw` -/

@[simp] theorem State.nextDraw_mem : (s.nextDraw).mem = s.mem := rfl
@[simp] theorem State.nextDraw_v : (s.nextDraw).v = s.v := rfl
@[simp] theorem State.nextDraw_i : (s.nextDraw).i = s.i := rfl
@[simp] theorem State.nextDraw_pc : (s.nextDraw).pc = s.pc := rfl
@[simp] theorem State.nextDraw_stack : (s.nextDraw).stack = s.stack := rfl
@[simp] theorem State.nextDraw_sp : (s.nextDraw).sp = s.sp := rfl
@[simp] theorem State.nextDraw_dt : (s.nextDraw).dt = s.dt := rfl
@[simp] theorem State.nextDraw_fb : (s.nextDraw).fb = s.fb := rfl
@[simp] theorem State.nextDraw_key : (s.nextDraw).key = s.key := rfl
@[simp] theorem State.nextDraw_awaitValid : (s.nextDraw).awaitValid = s.awaitValid := rfl
@[simp] theorem State.nextDraw_awaitKey : (s.nextDraw).awaitKey = s.awaitKey := rfl
@[simp] theorem State.nextDraw_runState : (s.nextDraw).runState = s.runState := rfl
@[simp] theorem State.nextDraw_fault : (s.nextDraw).fault = s.fault := rfl
@[simp] theorem State.nextDraw_cfg : (s.nextDraw).cfg = s.cfg := rfl
@[simp] theorem State.nextDraw_draw : (s.nextDraw).draw = s.draw + 1 := rfl
@[simp] theorem State.nextDraw_agenda : (s.nextDraw).agenda = s.agenda := rfl
@[simp] theorem State.nextDraw_plan : (s.nextDraw).plan = s.plan := rfl
@[simp] theorem State.nextDraw_font : (s.nextDraw).font = s.font := rfl

/-! ### `setAgenda` -/

@[simp] theorem State.setAgenda_mem (acts : List HostAction) : (s.setAgenda acts).mem = s.mem := rfl
@[simp] theorem State.setAgenda_v (acts : List HostAction) : (s.setAgenda acts).v = s.v := rfl
@[simp] theorem State.setAgenda_i (acts : List HostAction) : (s.setAgenda acts).i = s.i := rfl
@[simp] theorem State.setAgenda_pc (acts : List HostAction) : (s.setAgenda acts).pc = s.pc := rfl
@[simp] theorem State.setAgenda_stack (acts : List HostAction) : (s.setAgenda acts).stack = s.stack := rfl
@[simp] theorem State.setAgenda_sp (acts : List HostAction) : (s.setAgenda acts).sp = s.sp := rfl
@[simp] theorem State.setAgenda_dt (acts : List HostAction) : (s.setAgenda acts).dt = s.dt := rfl
@[simp] theorem State.setAgenda_fb (acts : List HostAction) : (s.setAgenda acts).fb = s.fb := rfl
@[simp] theorem State.setAgenda_key (acts : List HostAction) : (s.setAgenda acts).key = s.key := rfl
@[simp] theorem State.setAgenda_awaitValid (acts : List HostAction) : (s.setAgenda acts).awaitValid = s.awaitValid := rfl
@[simp] theorem State.setAgenda_awaitKey (acts : List HostAction) : (s.setAgenda acts).awaitKey = s.awaitKey := rfl
@[simp] theorem State.setAgenda_runState (acts : List HostAction) : (s.setAgenda acts).runState = s.runState := rfl
@[simp] theorem State.setAgenda_fault (acts : List HostAction) : (s.setAgenda acts).fault = s.fault := rfl
@[simp] theorem State.setAgenda_cfg (acts : List HostAction) : (s.setAgenda acts).cfg = s.cfg := rfl
@[simp] theorem State.setAgenda_draw (acts : List HostAction) : (s.setAgenda acts).draw = s.draw := rfl
@[simp] theorem State.setAgenda_agenda (acts : List HostAction) : (s.setAgenda acts).agenda = acts := rfl
@[simp] theorem State.setAgenda_plan (acts : List HostAction) : (s.setAgenda acts).plan = s.plan := rfl
@[simp] theorem State.setAgenda_font (acts : List HostAction) : (s.setAgenda acts).font = s.font := rfl

/-! ### `setPlan` -/

@[simp] theorem State.setPlan_mem (p : HostPlan) : (s.setPlan p).mem = s.mem := rfl
@[simp] theorem State.setPlan_v (p : HostPlan) : (s.setPlan p).v = s.v := rfl
@[simp] theorem State.setPlan_i (p : HostPlan) : (s.setPlan p).i = s.i := rfl
@[simp] theorem State.setPlan_pc (p : HostPlan) : (s.setPlan p).pc = s.pc := rfl
@[simp] theorem State.setPlan_stack (p : HostPlan) : (s.setPlan p).stack = s.stack := rfl
@[simp] theorem State.setPlan_sp (p : HostPlan) : (s.setPlan p).sp = s.sp := rfl
@[simp] theorem State.setPlan_dt (p : HostPlan) : (s.setPlan p).dt = s.dt := rfl
@[simp] theorem State.setPlan_fb (p : HostPlan) : (s.setPlan p).fb = s.fb := rfl
@[simp] theorem State.setPlan_key (p : HostPlan) : (s.setPlan p).key = s.key := rfl
@[simp] theorem State.setPlan_awaitValid (p : HostPlan) : (s.setPlan p).awaitValid = s.awaitValid := rfl
@[simp] theorem State.setPlan_awaitKey (p : HostPlan) : (s.setPlan p).awaitKey = s.awaitKey := rfl
@[simp] theorem State.setPlan_runState (p : HostPlan) : (s.setPlan p).runState = s.runState := rfl
@[simp] theorem State.setPlan_fault (p : HostPlan) : (s.setPlan p).fault = s.fault := rfl
@[simp] theorem State.setPlan_cfg (p : HostPlan) : (s.setPlan p).cfg = s.cfg := rfl
@[simp] theorem State.setPlan_draw (p : HostPlan) : (s.setPlan p).draw = s.draw := rfl
@[simp] theorem State.setPlan_agenda (p : HostPlan) : (s.setPlan p).agenda = s.agenda := rfl
@[simp] theorem State.setPlan_plan (p : HostPlan) : (s.setPlan p).plan = p := rfl
@[simp] theorem State.setPlan_font (p : HostPlan) : (s.setPlan p).font = s.font := rfl

/-! ### `recordFault` -/

@[simp] theorem State.recordFault_mem (c : FaultCause) : (s.recordFault c).mem = s.mem := rfl
@[simp] theorem State.recordFault_v (c : FaultCause) : (s.recordFault c).v = s.v := rfl
@[simp] theorem State.recordFault_i (c : FaultCause) : (s.recordFault c).i = s.i := rfl
@[simp] theorem State.recordFault_pc (c : FaultCause) : (s.recordFault c).pc = s.pc := rfl
@[simp] theorem State.recordFault_stack (c : FaultCause) : (s.recordFault c).stack = s.stack := rfl
@[simp] theorem State.recordFault_sp (c : FaultCause) : (s.recordFault c).sp = s.sp := rfl
@[simp] theorem State.recordFault_dt (c : FaultCause) : (s.recordFault c).dt = s.dt := rfl
@[simp] theorem State.recordFault_fb (c : FaultCause) : (s.recordFault c).fb = s.fb := rfl
@[simp] theorem State.recordFault_key (c : FaultCause) : (s.recordFault c).key = s.key := rfl
@[simp] theorem State.recordFault_awaitValid (c : FaultCause) : (s.recordFault c).awaitValid = s.awaitValid := rfl
@[simp] theorem State.recordFault_awaitKey (c : FaultCause) : (s.recordFault c).awaitKey = s.awaitKey := rfl
@[simp] theorem State.recordFault_runState (c : FaultCause) : (s.recordFault c).runState = s.runState := rfl
@[simp] theorem State.recordFault_fault (c : FaultCause) : (s.recordFault c).fault = c := rfl
@[simp] theorem State.recordFault_cfg (c : FaultCause) : (s.recordFault c).cfg = s.cfg := rfl
@[simp] theorem State.recordFault_draw (c : FaultCause) : (s.recordFault c).draw = s.draw := rfl
@[simp] theorem State.recordFault_agenda (c : FaultCause) : (s.recordFault c).agenda = s.agenda := rfl
@[simp] theorem State.recordFault_plan (c : FaultCause) : (s.recordFault c).plan = s.plan := rfl
@[simp] theorem State.recordFault_font (c : FaultCause) : (s.recordFault c).font = s.font := rfl

/-! ### Register reads after register writes -/

theorem State.getV_eq (x : Reg) : s.getV x = s.v[x] := rfl

@[simp] theorem State.getV_setV_same (x : Reg) (b : Byte) : (s.setV x b).getV x = b := by
  simp [State.getV_eq]

theorem State.getV_setV_other {x y : Reg} (h : x ≠ y) (b : Byte) : (s.setV x b).getV y = s.getV y := by
  have hv : x.val ≠ y.val := fun e => h (Fin.ext e)
  simp [State.getV_eq, Vector.getElem_set_ne, hv]

@[simp] theorem State.getV_setVF_flag (b : Byte) : (s.setVF b).getV 15 = b := s.getV_setV_same 15 b

@[simp] theorem State.getV_advance (x : Reg) : s.advance.getV x = s.getV x := rfl

/-- Every write of `pc` leaves it below 4096 (R25). -/
theorem State.setPc_pc_lt (n : Nat) : (s.setPc n).pc.toNat < 4096 := by
  simp only [State.setPc_pc, BitVec.toNat_ofNat]
  omega

theorem State.advance_pc_lt : s.advance.pc.toNat < 4096 := s.setPc_pc_lt _

end Sys2Proof.Machine
end

