-- ==== Sys2Proof/Laws/Ops.lean ====
section
/-! SUPPORT. One lemma per shared operation that says once everything it can do; proofs cite these and do not unfold the operations. -/

namespace Sys2Proof.Machine

/-! ### Faults and the range check -/

@[simp] theorem takeFault_eq (c : FaultCause) (s : State) : takeFault c s = .next (s.recordFault c) := rfl

/-- In range, an index-relative access ends in its own state (R60). -/
theorem checkRange_inside {s : State} {n : Nat} (h : ¬ outOfRange s.i.toNat n) (t : State) :
    checkRange s n t = .next t := if_neg h

/-- Out of range, an index-relative access records the fault and changes nothing else (R60, R227). -/
theorem checkRange_outside {s : State} {n : Nat} (h : outOfRange s.i.toNat n) (t : State) :
    checkRange s n t = .next (s.recordFault .memoryAccessOutOfBounds) := if_pos h

/-- Everything a range check can answer. -/
theorem checkRange_cases {s t u : State} {n : Nat} (h : checkRange s n t = .next u) :
    (outOfRange s.i.toNat n ∧ u = s.recordFault .memoryAccessOutOfBounds) ∨
    (¬ outOfRange s.i.toNat n ∧ u = t) := by
  by_cases hr : outOfRange s.i.toNat n
  · rw [checkRange_outside hr] at h
    exact .inl ⟨hr, by simpa using h.symm⟩
  · rw [checkRange_inside hr] at h
    exact .inr ⟨hr, by simpa using h.symm⟩

/-- A transfer of at least one byte is out of range exactly when its last byte passes 4095. -/
theorem outOfRange_transferCount (i : Nat) (x : Reg) : outOfRange i (transferCount x) ↔ 4095 < i + x.val := by
  simp only [outOfRange, transferCount]
  omega

theorem outOfRange_three (i : Nat) : outOfRange i 3 ↔ 4095 < i + 2 := by
  simp only [outOfRange]
  omega

/-! ### The common ends of an instruction -/

@[simp] theorem finish_eq (s : State) : finish s = .next s.advance := rfl

@[simp] theorem writeResult_eq (s : State) (x : Reg) (r : Byte) :
    writeResult s x r = .next (s.setV x r).advance := rfl

@[simp] theorem writeResultFlag_eq (s : State) (x : Reg) (r f : Byte) :
    writeResultFlag s x r f = .next ((s.setV x r).setVF f).advance := rfl

/-- Everything a bitwise result can do. -/
theorem writeBitwise_eq (s : State) (x : Reg) (r : Byte) :
    writeBitwise s x r =
      .next (if s.cfg.legacyBitwiseClearsFlag then ((s.setV x r).setVF 0).advance else (s.setV x r).advance) := by
  unfold writeBitwise
  split <;> rfl

/-- Two advances are one advance by four (R113, R24). -/
theorem State.advance_advance (s : State) : s.advance.advance = s.setPc (s.pc.toNat + 4) := by
  have h : s.advance.advance.pc = (s.setPc (s.pc.toNat + 4)).pc := by
    apply BitVec.eq_of_toNat_eq
    simp only [State.advance_pc, State.setPc_pc, BitVec.toNat_ofNat]
    omega
  exact congrArg (fun w => { s with pc := w }) h

/-- A skip changes only `pc` (R118): by 4 when the condition holds, else by 2. -/
theorem skipIf_eq (s : State) (c : Bool) :
    skipIf s c = .next (s.setPc (s.pc.toNat + if c then 4 else 2)) := by
  cases c
  · rfl
  · exact congrArg _ s.advance_advance

/-! ### The legacy increment of I -/

/-- The legacy increment changes only `I`, and only in the legacy setting (R164, R165). -/
theorem State.bulkIndex_eq (s : State) (x : Reg) :
    s.bulkIndex x =
      s.setI (if s.cfg.legacyIndexIncrementOnBulkTransfer then s.i.toNat + transferCount x else s.i.toNat) := by
  unfold State.bulkIndex
  split
  · rfl
  · simp [State.setI]

/-- The index register after the legacy increment, for a transfer in range: no wrap-around. -/
theorem State.bulkIndex_i (s : State) (x : Reg) (h : s.i.toNat + x.val ≤ 4095) :
    (s.bulkIndex x).i.toNat =
      if s.cfg.legacyIndexIncrementOnBulkTransfer then s.i.toNat + x.val + 1 else s.i.toNat := by
  have := s.i.isLt
  rw [State.bulkIndex_eq, State.setI_i, BitVec.toNat_ofNat, transferCount]
  split <;> omega

@[simp] theorem State.firstRegs_length (s : State) (x : Reg) : (s.firstRegs x).length = x.val + 1 := by
  have := x.isLt
  simp [State.firstRegs, transferCount]

/-- A jump target is below 4096, so writing it to `pc` does not change it (R111). -/
theorem addr_mod (nnn : Addr) : BitVec.ofNat 16 (nnn.toNat % 4096) = nnn.setWidth 16 := by
  apply BitVec.eq_of_toNat_eq
  have := nnn.isLt
  simp only [BitVec.toNat_ofNat, BitVec.toNat_setWidth]
  omega

/-! ### Fetch and the transactions -/

/-- The instruction at `pc` is what its two bytes decode to. -/
theorem State.fetched_eq (s : State) :
    s.fetched = decodeWord (wordOfBytes (s.mem.read s.fetchAddr) (s.mem.read s.fetchAddr2)) := rfl

theorem State.gateOpen_iff (s : State) : s.gateOpen = true ↔ s.runState = .running ∧ s.fault = .none := by
  simp [State.gateOpen]

/-- Everything a `STEP` can do (R90, R94). -/
theorem engineStep_cases (s : State) :
    (s.runState = .running ∧ s.fault = .none ∧ engineStep s = exec s.fetched s) ∨
    ((s.runState ≠ .running ∨ s.fault ≠ .none) ∧ engineStep s = .next s) := by
  unfold engineStep
  by_cases h : s.gateOpen
  · rw [if_pos h]
    obtain ⟨h1, h2⟩ := s.gateOpen_iff.mp h
    exact .inl ⟨h1, h2, rfl⟩
  · rw [if_neg h]
    rw [s.gateOpen_iff] at h
    exact .inr ⟨by tauto, rfl⟩

/-- Taking a transaction from the host's side changes nothing but the host's side (log entry 2). -/
theorem State.nextAction_state (s : State) :
    s.nextAction.2 = { s with agenda := s.nextAction.2.agenda, plan := s.nextAction.2.plan } := by
  unfold State.nextAction
  split
  · rfl
  · split <;> rfl

/-- A step is the next transaction (R3). -/
theorem step_eq (s : State) : step s = transact s.nextAction.1 s.nextAction.2 := rfl

@[simp] theorem step_action {s : State} {a : HostAction} {acts : List HostAction} (h : s.agenda = a :: acts) :
    step s = transact a (s.setAgenda acts) := by
  simp [step_eq, State.nextAction, h]

@[simp] theorem step_stepping {s : State} (h : s.agenda = []) (hp : s.plan = .stepping) : step s = engineStep s := by
  simp [step_eq, State.nextAction, h, hp, transact]

@[simp] theorem step_repeating {s : State} {a : HostAction} {acts : List HostAction} (h : s.agenda = [])
    (hp : s.plan = .repeating a acts) : step s = transact a (s.setAgenda acts) := by
  simp [step_eq, State.nextAction, h, hp]

@[simp] theorem step_free {s : State} {n : Nat} (h : s.agenda = []) (hp : s.plan = .free n) :
    step s = transact (Config.hostChoice n) (s.setPlan (.free (n + 1))) := by
  simp [step_eq, State.nextAction, h, hp]

/-- Everything one step can do: some transaction, in the state with the host's side moved on (R3). -/
theorem step_cases (s : State) :
    ∃ a acts p, step s = transact a { s with agenda := acts, plan := p } :=
  ⟨s.nextAction.1, s.nextAction.2.agenda, s.nextAction.2.plan, by rw [step_eq, ← State.nextAction_state]⟩

/-- Everything a host transaction can do when it answers a next state. -/
theorem transact_cases {a : HostAction} {s t : State} (h : transact a s = .next t) :
    (a = .step ∧ engineStep s = .next t) ∨
    (a = .tick ∧ t = tick s) ∨
    (∃ latch, a = .setKeys latch ∧ t = setKeys latch s) ∨
    (∃ r, a = .setRunState r ∧ t = setRunState r s) ∨
    (∃ image cfg u, a = .reset image cfg ∧ resetWith s.font image cfg = .next u ∧
      t = { u with draw := s.draw, agenda := s.agenda, plan := s.plan }) := by
  cases a with
  | step => exact .inl ⟨rfl, h⟩
  | tick => exact .inr (.inl ⟨rfl, by simpa [transact] using h.symm⟩)
  | setKeys latch => exact .inr (.inr (.inl ⟨latch, rfl, by simpa [transact] using h.symm⟩))
  | setRunState r => exact .inr (.inr (.inr (.inl ⟨r, rfl, by simpa [transact] using h.symm⟩)))
  | reset image cfg =>
    refine .inr (.inr (.inr (.inr ⟨image, cfg, ?_⟩)))
    simp only [transact] at h
    split at h
    · rename_i u hu
      exact ⟨u, rfl, hu, by simpa using h.symm⟩
    · cases h
    · cases h

/-- A request for a run state: obeyed unless `Halted` (R241). -/
theorem setRunState_eq (r : RunState) (s : State) :
    setRunState r s = if s.runState = .halted then s else s.putRunState r := by
  unfold setRunState
  split <;> simp_all

/-- The memory `RESET` builds is in canonical form. -/
theorem resetMem_wf (font : Vector Byte 80) (image : List Byte) :
    ((Memory.writeBytes [] 0 font.toList).writeBytes Config.progBase image).wf :=
  Memory.wf_writeBytes (Memory.wf_writeBytes Memory.wf_nil _ _) _ _

end Sys2Proof.Machine
end

