-- ==== Sys2Proof/Laws/HostSide.lean ====
section
/-! SUPPORT. The host's side (agenda and plan) and the machine do not read each other: what a transaction does is the same under every agenda and plan, and it keeps both. -/

namespace Sys2Proof.Machine

/-- A state with another agenda and plan. -/
def State.withHost (s : State) (g : List HostAction) (p : HostPlan) : State := { s with agenda := g, plan := p }

/-- An outcome with its next state changed. -/
def mapNext (f : State → State) : Host.Outcome State Fault Refusal → Host.Outcome State Fault Refusal
  | .next t => .next (f t)
  | .fault e => .fault e
  | .refused e => .refused e

/-- No instruction reads the agenda or the plan, and none writes them (R3; log entry 2). -/
theorem exec_withHost (i : Instr) (s : State) (g : List HostAction) (p : HostPlan) : exec i (s.withHost g p) = mapNext (·.withHost g p) (exec i s) := by
  cases i with
  | drw x y n =>
    simp only [exec, execDrw, checkRange]
    have : (s.withHost g p).i = s.i := rfl
    rw [this]; split <;> rfl
  | ldB x =>
    simp only [exec, execLdB, checkRange]
    have : (s.withHost g p).i = s.i := rfl
    rw [this]; split <;> rfl
  | ldMemVx x =>
    simp only [exec, execLdMemVx, checkRange, State.bulkIndex_eq]
    have : (s.withHost g p).i = s.i := rfl
    rw [this]; split <;> rfl
  | ldVxMem x =>
    simp only [exec, execLdVxMem, checkRange, State.bulkIndex_eq]
    have : (s.withHost g p).i = s.i := rfl
    rw [this]; split <;> rfl
  | ret =>
    simp only [exec, execRet]
    by_cases h : 0 < s.sp.val
    · rw [dif_pos h, dif_pos (show 0 < (s.withHost g p).sp.val from h)]; rfl
    · rw [dif_neg h, dif_neg (show ¬ 0 < (s.withHost g p).sp.val from h)]; rfl
  | call nnn =>
    simp only [exec, execCall]
    by_cases h : s.sp.val < Config.stackCap
    · rw [dif_pos h, dif_pos (show (s.withHost g p).sp.val < _ from h)]; rfl
    · rw [dif_neg h, dif_neg (show ¬ (s.withHost g p).sp.val < _ from h)]; rfl
  | ldVxK x =>
    simp only [exec, execLdVxK]
    have h1 : (s.withHost g p).awaitValid = s.awaitValid := rfl
    have h2 : (s.withHost g p).keyDown (s.withHost g p).awaitKey = s.keyDown s.awaitKey := rfl
    have h3 : (s.withHost g p).key = s.key := rfl
    rw [h1, h2, h3]
    split
    · split <;> rfl
    · split <;> rfl
  | seImm x nn => simp only [exec, execSeImm, skipIf_eq]; rfl
  | sneImm x nn => simp only [exec, execSneImm, skipIf_eq]; rfl
  | seReg x nn => simp only [exec, execSeReg, skipIf_eq]; rfl
  | sneReg x nn => simp only [exec, execSneReg, skipIf_eq]; rfl
  | skp x => simp only [exec, execSkp, skipIf_eq]; rfl
  | sknp x => simp only [exec, execSknp, skipIf_eq]; rfl
  | or x y =>
    simp only [exec, execOr, writeBitwise_eq]
    rw [show (s.withHost g p).cfg = s.cfg from rfl]
    simp only [mapNext]
    split <;> rfl
  | and x y =>
    simp only [exec, execAnd, writeBitwise_eq]
    rw [show (s.withHost g p).cfg = s.cfg from rfl]
    simp only [mapNext]
    split <;> rfl
  | xor x y =>
    simp only [exec, execXor, writeBitwise_eq]
    rw [show (s.withHost g p).cfg = s.cfg from rfl]
    simp only [mapNext]
    split <;> rfl
  | _ => rfl

/-- No transaction reads the agenda or the plan, and none writes them (R3; log entries 2 and 12). -/
theorem transact_withHost (a : HostAction) (s : State) (g : List HostAction) (p : HostPlan) : transact a (s.withHost g p) = mapNext (·.withHost g p) (transact a s) := by
  cases a with
  | step =>
    simp only [transact, engineStep]
    have h1 : (s.withHost g p).gateOpen = s.gateOpen := rfl
    have h2 : (s.withHost g p).fetched = s.fetched := rfl
    rw [h1, h2, exec_withHost]; split <;> rfl
  | tick => rfl
  | setKeys l => rfl
  | setRunState r =>
    simp only [transact, setRunState_eq]
    have h1 : (s.withHost g p).runState = s.runState := rfl
    rw [h1]; simp only [mapNext]; split <;> rfl
  | reset im c =>
    simp only [transact]
    have h1 : (s.withHost g p).font = s.font := rfl
    rw [h1]; cases resetWith s.font im c <;> rfl

/-- A transaction keeps the agenda and the plan. -/
theorem transact_keeps_host {a : HostAction} {s t : State} (h : transact a s = .next t) :
    t.agenda = s.agenda ∧ t.plan = s.plan := by
  have e := transact_withHost a s s.agenda s.plan
  rw [show s.withHost s.agenda s.plan = s from rfl, h] at e
  have ht : t = t.withHost s.agenda s.plan := Host.Outcome.next.inj e
  rw [ht]
  exact ⟨rfl, rfl⟩

/-- One more step of a run, over `step`. -/
theorem run_succ (k : Nat) (s : State) :
    Host.Core.run Sys2Proof.core (k + 1) s =
      match step s with
      | .next t => Host.Core.run Sys2Proof.core k t
      | .fault e => .fault e
      | .refused e => .refused e := by
  simp only [Host.Core.run]
  cases h : step s with
  | next t => have h' : Sys2Proof.core.step s = .next t := h; rw [h']
  | fault e => have h' : Sys2Proof.core.step s = .fault e := h; rw [h']
  | refused e => have h' : Sys2Proof.core.step s = .refused e := h; rw [h']

end Sys2Proof.Machine
end

