-- ==== Sys2Proof/Laws/PerInstr.lean ====
section
/-! SUPPORT. The per-instruction law RowMatch: the word an instruction encodes to selects the instruction's own row of the opcode table, and the word of a well-formed unrecognized instruction selects none (R73, R74). -/

namespace Sys2Proof.Laws.RowMatch

/-- The encoding of an operation is a word of its row; a well-formed unrecognized word is a word of no row (R73, R74). -/
def Statement : Instr → Prop
  | .unrecognized op => unrecognizedWord op → ∀ r ∈ opcodeTable, r.selects (encode (.unrecognized op)) = false
  | i => ∃ r ∈ opcodeTable, r.op = i.op ∧ r.selects (encode i) = true

section
variable (x y : Reg) (n : Nibble) (nn : Byte) (nnn : Addr)

theorem cls : Statement .cls :=
  ⟨⟨.cls, 0xFFFF, 0x00E0⟩, by decide, rfl, by decide⟩

theorem ret : Statement .ret :=
  ⟨⟨.ret, 0xFFFF, 0x00EE⟩, by decide, rfl, by decide⟩

theorem jp : Statement (.jp nnn) := by
  refine ⟨⟨.jp, 0xF000, 0x1000⟩, by decide, rfl, ?_⟩
  have := nnn.isLt
  simp only [OpcodeRow.selects_iff, encode, BitVec.ofNat_eq_ofNat, toNat_and_F000, wordNNN_toNat, BitVec.toNat_ofNat]
  omega

theorem call : Statement (.call nnn) := by
  refine ⟨⟨.call, 0xF000, 0x2000⟩, by decide, rfl, ?_⟩
  have := nnn.isLt
  simp only [OpcodeRow.selects_iff, encode, BitVec.ofNat_eq_ofNat, toNat_and_F000, wordNNN_toNat, BitVec.toNat_ofNat]
  omega

theorem seImm : Statement (.seImm x nn) := by
  refine ⟨⟨.seImm, 0xF000, 0x3000⟩, by decide, rfl, ?_⟩
  have := x.isLt; have := nn.isLt
  simp only [OpcodeRow.selects_iff, encode, BitVec.ofNat_eq_ofNat, toNat_and_F000, wordXNN_toNat, regNibble_toNat, BitVec.toNat_ofNat]
  omega

theorem sneImm : Statement (.sneImm x nn) := by
  refine ⟨⟨.sneImm, 0xF000, 0x4000⟩, by decide, rfl, ?_⟩
  have := x.isLt; have := nn.isLt
  simp only [OpcodeRow.selects_iff, encode, BitVec.ofNat_eq_ofNat, toNat_and_F000, wordXNN_toNat, regNibble_toNat, BitVec.toNat_ofNat]
  omega

theorem seReg : Statement (.seReg x y) := by
  refine ⟨⟨.seReg, 0xF00F, 0x5000⟩, by decide, rfl, ?_⟩
  have := x.isLt; have := y.isLt
  simp only [OpcodeRow.selects_iff, encode, BitVec.ofNat_eq_ofNat, toNat_and_F00F, word4_toNat, regNibble_toNat, BitVec.toNat_ofNat]
  omega

theorem ldImm : Statement (.ldImm x nn) := by
  refine ⟨⟨.ldImm, 0xF000, 0x6000⟩, by decide, rfl, ?_⟩
  have := x.isLt; have := nn.isLt
  simp only [OpcodeRow.selects_iff, encode, BitVec.ofNat_eq_ofNat, toNat_and_F000, wordXNN_toNat, regNibble_toNat, BitVec.toNat_ofNat]
  omega

theorem addImm : Statement (.addImm x nn) := by
  refine ⟨⟨.addImm, 0xF000, 0x7000⟩, by decide, rfl, ?_⟩
  have := x.isLt; have := nn.isLt
  simp only [OpcodeRow.selects_iff, encode, BitVec.ofNat_eq_ofNat, toNat_and_F000, wordXNN_toNat, regNibble_toNat, BitVec.toNat_ofNat]
  omega

theorem ldReg : Statement (.ldReg x y) := by
  refine ⟨⟨.ldReg, 0xF00F, 0x8000⟩, by decide, rfl, ?_⟩
  have := x.isLt; have := y.isLt
  simp only [OpcodeRow.selects_iff, encode, BitVec.ofNat_eq_ofNat, toNat_and_F00F, word4_toNat, regNibble_toNat, BitVec.toNat_ofNat]
  omega

theorem or : Statement (.or x y) := by
  refine ⟨⟨.or, 0xF00F, 0x8001⟩, by decide, rfl, ?_⟩
  have := x.isLt; have := y.isLt
  simp only [OpcodeRow.selects_iff, encode, BitVec.ofNat_eq_ofNat, toNat_and_F00F, word4_toNat, regNibble_toNat, BitVec.toNat_ofNat]
  omega

theorem and : Statement (.and x y) := by
  refine ⟨⟨.and, 0xF00F, 0x8002⟩, by decide, rfl, ?_⟩
  have := x.isLt; have := y.isLt
  simp only [OpcodeRow.selects_iff, encode, BitVec.ofNat_eq_ofNat, toNat_and_F00F, word4_toNat, regNibble_toNat, BitVec.toNat_ofNat]
  omega

theorem xor : Statement (.xor x y) := by
  refine ⟨⟨.xor, 0xF00F, 0x8003⟩, by decide, rfl, ?_⟩
  have := x.isLt; have := y.isLt
  simp only [OpcodeRow.selects_iff, encode, BitVec.ofNat_eq_ofNat, toNat_and_F00F, word4_toNat, regNibble_toNat, BitVec.toNat_ofNat]
  omega

theorem addReg : Statement (.addReg x y) := by
  refine ⟨⟨.addReg, 0xF00F, 0x8004⟩, by decide, rfl, ?_⟩
  have := x.isLt; have := y.isLt
  simp only [OpcodeRow.selects_iff, encode, BitVec.ofNat_eq_ofNat, toNat_and_F00F, word4_toNat, regNibble_toNat, BitVec.toNat_ofNat]
  omega

theorem sub : Statement (.sub x y) := by
  refine ⟨⟨.sub, 0xF00F, 0x8005⟩, by decide, rfl, ?_⟩
  have := x.isLt; have := y.isLt
  simp only [OpcodeRow.selects_iff, encode, BitVec.ofNat_eq_ofNat, toNat_and_F00F, word4_toNat, regNibble_toNat, BitVec.toNat_ofNat]
  omega

theorem shr : Statement (.shr x y) := by
  refine ⟨⟨.shr, 0xF00F, 0x8006⟩, by decide, rfl, ?_⟩
  have := x.isLt; have := y.isLt
  simp only [OpcodeRow.selects_iff, encode, BitVec.ofNat_eq_ofNat, toNat_and_F00F, word4_toNat, regNibble_toNat, BitVec.toNat_ofNat]
  omega

theorem subn : Statement (.subn x y) := by
  refine ⟨⟨.subn, 0xF00F, 0x8007⟩, by decide, rfl, ?_⟩
  have := x.isLt; have := y.isLt
  simp only [OpcodeRow.selects_iff, encode, BitVec.ofNat_eq_ofNat, toNat_and_F00F, word4_toNat, regNibble_toNat, BitVec.toNat_ofNat]
  omega

theorem shl : Statement (.shl x y) := by
  refine ⟨⟨.shl, 0xF00F, 0x800E⟩, by decide, rfl, ?_⟩
  have := x.isLt; have := y.isLt
  simp only [OpcodeRow.selects_iff, encode, BitVec.ofNat_eq_ofNat, toNat_and_F00F, word4_toNat, regNibble_toNat, BitVec.toNat_ofNat]
  omega

theorem sneReg : Statement (.sneReg x y) := by
  refine ⟨⟨.sneReg, 0xF00F, 0x9000⟩, by decide, rfl, ?_⟩
  have := x.isLt; have := y.isLt
  simp only [OpcodeRow.selects_iff, encode, BitVec.ofNat_eq_ofNat, toNat_and_F00F, word4_toNat, regNibble_toNat, BitVec.toNat_ofNat]
  omega

theorem ldI : Statement (.ldI nnn) := by
  refine ⟨⟨.ldI, 0xF000, 0xA000⟩, by decide, rfl, ?_⟩
  have := nnn.isLt
  simp only [OpcodeRow.selects_iff, encode, BitVec.ofNat_eq_ofNat, toNat_and_F000, wordNNN_toNat, BitVec.toNat_ofNat]
  omega

theorem jpV0 : Statement (.jpV0 nnn) := by
  refine ⟨⟨.jpV0, 0xF000, 0xB000⟩, by decide, rfl, ?_⟩
  have := nnn.isLt
  simp only [OpcodeRow.selects_iff, encode, BitVec.ofNat_eq_ofNat, toNat_and_F000, wordNNN_toNat, BitVec.toNat_ofNat]
  omega

theorem rnd : Statement (.rnd x nn) := by
  refine ⟨⟨.rnd, 0xF000, 0xC000⟩, by decide, rfl, ?_⟩
  have := x.isLt; have := nn.isLt
  simp only [OpcodeRow.selects_iff, encode, BitVec.ofNat_eq_ofNat, toNat_and_F000, wordXNN_toNat, regNibble_toNat, BitVec.toNat_ofNat]
  omega

theorem drw : Statement (.drw x y n) := by
  refine ⟨⟨.drw, 0xF000, 0xD000⟩, by decide, rfl, ?_⟩
  have := x.isLt; have := y.isLt; have := n.isLt
  simp only [OpcodeRow.selects_iff, encode, BitVec.ofNat_eq_ofNat, toNat_and_F000, word4_toNat, regNibble_toNat, BitVec.toNat_ofNat]
  omega

theorem skp : Statement (.skp x) := by
  refine ⟨⟨.skp, 0xF0FF, 0xE09E⟩, by decide, rfl, ?_⟩
  have := x.isLt
  simp only [OpcodeRow.selects_iff, encode, BitVec.ofNat_eq_ofNat, toNat_and_F0FF, wordXNN_toNat, regNibble_toNat, BitVec.toNat_ofNat]
  omega

theorem sknp : Statement (.sknp x) := by
  refine ⟨⟨.sknp, 0xF0FF, 0xE0A1⟩, by decide, rfl, ?_⟩
  have := x.isLt
  simp only [OpcodeRow.selects_iff, encode, BitVec.ofNat_eq_ofNat, toNat_and_F0FF, wordXNN_toNat, regNibble_toNat, BitVec.toNat_ofNat]
  omega

theorem ldVxDt : Statement (.ldVxDt x) := by
  refine ⟨⟨.ldVxDt, 0xF0FF, 0xF007⟩, by decide, rfl, ?_⟩
  have := x.isLt
  simp only [OpcodeRow.selects_iff, encode, BitVec.ofNat_eq_ofNat, toNat_and_F0FF, wordXNN_toNat, regNibble_toNat, BitVec.toNat_ofNat]
  omega

theorem ldVxK : Statement (.ldVxK x) := by
  refine ⟨⟨.ldVxK, 0xF0FF, 0xF00A⟩, by decide, rfl, ?_⟩
  have := x.isLt
  simp only [OpcodeRow.selects_iff, encode, BitVec.ofNat_eq_ofNat, toNat_and_F0FF, wordXNN_toNat, regNibble_toNat, BitVec.toNat_ofNat]
  omega

theorem ldDtVx : Statement (.ldDtVx x) := by
  refine ⟨⟨.ldDtVx, 0xF0FF, 0xF015⟩, by decide, rfl, ?_⟩
  have := x.isLt
  simp only [OpcodeRow.selects_iff, encode, BitVec.ofNat_eq_ofNat, toNat_and_F0FF, wordXNN_toNat, regNibble_toNat, BitVec.toNat_ofNat]
  omega

theorem addI : Statement (.addI x) := by
  refine ⟨⟨.addI, 0xF0FF, 0xF01E⟩, by decide, rfl, ?_⟩
  have := x.isLt
  simp only [OpcodeRow.selects_iff, encode, BitVec.ofNat_eq_ofNat, toNat_and_F0FF, wordXNN_toNat, regNibble_toNat, BitVec.toNat_ofNat]
  omega

theorem ldF : Statement (.ldF x) := by
  refine ⟨⟨.ldF, 0xF0FF, 0xF029⟩, by decide, rfl, ?_⟩
  have := x.isLt
  simp only [OpcodeRow.selects_iff, encode, BitVec.ofNat_eq_ofNat, toNat_and_F0FF, wordXNN_toNat, regNibble_toNat, BitVec.toNat_ofNat]
  omega

theorem ldB : Statement (.ldB x) := by
  refine ⟨⟨.ldB, 0xF0FF, 0xF033⟩, by decide, rfl, ?_⟩
  have := x.isLt
  simp only [OpcodeRow.selects_iff, encode, BitVec.ofNat_eq_ofNat, toNat_and_F0FF, wordXNN_toNat, regNibble_toNat, BitVec.toNat_ofNat]
  omega

theorem ldMemVx : Statement (.ldMemVx x) := by
  refine ⟨⟨.ldMemVx, 0xF0FF, 0xF055⟩, by decide, rfl, ?_⟩
  have := x.isLt
  simp only [OpcodeRow.selects_iff, encode, BitVec.ofNat_eq_ofNat, toNat_and_F0FF, wordXNN_toNat, regNibble_toNat, BitVec.toNat_ofNat]
  omega

theorem ldVxMem : Statement (.ldVxMem x) := by
  refine ⟨⟨.ldVxMem, 0xF0FF, 0xF065⟩, by decide, rfl, ?_⟩
  have := x.isLt
  simp only [OpcodeRow.selects_iff, encode, BitVec.ofNat_eq_ofNat, toNat_and_F0FF, wordXNN_toNat, regNibble_toNat, BitVec.toNat_ofNat]
  omega

end

theorem unrecognized (op : Word) : Statement (.unrecognized op) := by
  intro h r hr
  have hlt := op.isLt
  rw [Bool.eq_false_iff, ne_eq, OpcodeRow.selects_iff]
  simp only [encode]
  simp only [unrecognizedWord, List.mem_cons, List.not_mem_nil, or_false, not_or] at h
  simp only [opcodeTable, List.cons_append, List.nil_append, List.mem_cons, List.not_mem_nil, or_false] at hr
  rcases hr with rfl | rfl | rfl | rfl | rfl | rfl | rfl | rfl | rfl | rfl | rfl | rfl | rfl | rfl | rfl | rfl | rfl |
    rfl | rfl | rfl | rfl | rfl | rfl | rfl | rfl | rfl | rfl | rfl | rfl | rfl | rfl | rfl | rfl <;>
  · simp only [BitVec.ofNat_eq_ofNat, toNat_and_F000, toNat_and_F00F, toNat_and_F0FF, toNat_and_FFFF, BitVec.toNat_ofNat]
    omega

end Sys2Proof.Laws.RowMatch
end

