-- ==== Sys2Proof/Tests/Slice0.lean ====
section
/-! SUPPORT. Tests of the model against words written out from the spec's patterns and against the vectors of spec/95_test_vectors.md, and one witness per obligation that has hypotheses. -/

namespace Sys2Proof.Tests

open Sys2Proof.Machine

/-! ### Helpers: small states and one step -/

/-- The reset state under another plan of the host, with a timer that runs. -/
def planned (p : HostPlan) : State := { State.reset with plan := p, dt := 3 }

/-- The legacy configuration, `cfg = L`. -/
def cfgL : Cfg := ⟨true, true, true⟩

/-- All options off, `cfg = N`. -/
def cfgN : Cfg := ⟨false, false, false⟩

/-- The reset state with some registers set. -/
def regs (l : List (Reg × Byte)) : State := l.foldl (fun s p => s.setV p.1 p.2) State.reset

/-- A state under another configuration. -/
def under (c : Cfg) (s : State) : State := { s with cfg := c }

/-- A state with another index register. -/
def index (i : Word) (s : State) : State := { s with i := i }

/-- A state with another pc. -/
def atPc (p : Word) (s : State) : State := { s with pc := p }

/-- A state with `n` stack entries in use, all equal to `w`. -/
def stacked (n : Fin 13) (w : Word) (s : State) : State := { s with sp := n, stack := Vector.replicate 12 w }

/-- A state with these keys pressed and no others. -/
def pressed (ks : List Key) (s : State) : State := { s with key := Vector.ofFn fun k => ks.contains k }

/-- A state with these cells `(x, y)` on and no others. -/
def lit (cs : List (Nat × Nat)) (s : State) : State :=
  { s with fb := Vector.ofFn fun y => Vector.ofFn fun x => cs.contains (x.val, y.val) }

/-- A state waiting for the release of a key. -/
def awaiting (k : Key) (s : State) : State := { s with awaitValid := true, awaitKey := k }

/-- Some cells, each at `(x, y)`. -/
def look (cs : List (Fin 64 × Fin 32)) (s : State) : List Bool := cs.map fun c => s.fb[c.2][c.1]

/-- One step on a word placed where the next fetch reads, looked at through `f`. -/
def ran {α : Type} (op : Nat) (s : State) (f : State → α) : Option α :=
  match step (s.withFetchWord 16 op) with
  | .next t => some (f t)
  | _ => none

/-- Three bytes of memory from an address. -/
def three (a : Nat) (s : State) : List Byte := [s.mem.read a, s.mem.read (a + 1), s.mem.read (a + 2)]

/-! ### WellFormed: the one check refuses -/

/-- An `unrecognized` that carries the word of CLS is ill formed (R75). -/
theorem test_wellFormed_refuses_cls : (Instr.unrecognized 0x00E0).wellFormed = false := by decide

/-- So is one that carries the word of ADD_REG, and one of LD_VX_MEM (R75). -/
theorem test_wellFormed_refuses_others :
    (Instr.unrecognized 0x8124).wellFormed = false ∧ (Instr.unrecognized 0xF265).wellFormed = false := by decide

/-- The words of T110 to T118 are well formed as `unrecognized`. -/
theorem test_wellFormed_accepts :
    ([0x0000, 0x0123, 0x5121, 0x8128, 0x9121, 0xE19F, 0xF018, 0xFFFF, 0x00E1, 0x00EF, 0x00FE] : List Word).all
      (fun w => (Instr.unrecognized w).wellFormed) = true := by decide

/-! ### Decoding: every constructor, from words written out from the patterns of R73 -/

theorem test_decode_flow :
    decodeWord 0x00E0 = .cls ∧ decodeWord 0x00EE = .ret ∧ decodeWord 0x1ABC = .jp 0xABC ∧
    decodeWord 0x2300 = .call 0x300 ∧ decodeWord 0xB2FE = .jpV0 0x2FE := by decide

theorem test_decode_skips :
    decodeWord 0x332A = .seImm 3 0x2A ∧ decodeWord 0x4300 = .sneImm 3 0 ∧ decodeWord 0x5120 = .seReg 1 2 ∧
    decodeWord 0x9120 = .sneReg 1 2 ∧ decodeWord 0xE49E = .skp 4 ∧ decodeWord 0xE4A1 = .sknp 4 := by decide

theorem test_decode_alu :
    decodeWord 0x6F2A = .ldImm 15 0x2A ∧ decodeWord 0x71FF = .addImm 1 0xFF ∧ decodeWord 0x8120 = .ldReg 1 2 ∧
    decodeWord 0x8121 = .or 1 2 ∧ decodeWord 0x8122 = .and 1 2 ∧ decodeWord 0x8123 = .xor 1 2 := by decide

theorem test_decode_alu_flags :
    decodeWord 0x8AB4 = .addReg 10 11 ∧ decodeWord 0x8125 = .sub 1 2 ∧ decodeWord 0x8126 = .shr 1 2 ∧
    decodeWord 0x8127 = .subn 1 2 ∧ decodeWord 0x812E = .shl 1 2 := by decide

theorem test_decode_index :
    decodeWord 0xA300 = .ldI 0x300 ∧ decodeWord 0xF21E = .addI 2 ∧ decodeWord 0xF229 = .ldF 2 ∧
    decodeWord 0xF333 = .ldB 3 ∧ decodeWord 0xF255 = .ldMemVx 2 ∧ decodeWord 0xF265 = .ldVxMem 2 := by decide

theorem test_decode_io :
    decodeWord 0xC10F = .rnd 1 0x0F ∧ decodeWord 0xD125 = .drw 1 2 5 ∧ decodeWord 0xF507 = .ldVxDt 5 ∧
    decodeWord 0xF30A = .ldVxK 3 ∧ decodeWord 0xF515 = .ldDtVx 5 := by decide

/-- T110 to T118. -/
theorem test_decode_unrecognized :
    ([0x0000, 0x0123, 0x5121, 0x8128, 0x9121, 0xE19F, 0xF018, 0xFFFF, 0x00E1, 0x00EF, 0x00FE] : List Word).all
      (fun w => decodeWord w == .unrecognized w) = true := by decide

/-- The two bytes of `6A11`, the high one first (R52), and a byte string that ends too early. -/
theorem test_decode_bytes :
    decode [0x6A, 0x11, 0x99] = .ok (.ldImm 10 0x11, [0x99]) ∧ decode [0x6A] = .error .truncated := by decide

theorem test_decodeTableWord : decodeTableWord 16 0xD015 = some (.drw 0 1 5) := by decide

/-- Encoding by hand for one instruction of each format (R72). -/
theorem test_encode_formats :
    encode .ret = 0x00EE ∧ encode (.jpV0 0x2FE) = 0xB2FE ∧ encode (.rnd 1 0x0F) = 0xC10F ∧
    encode (.subn 1 2) = 0x8127 ∧ encode (.drw 0xD 1 5) = 0xDD15 ∧ encode (.ldMemVx 2) = 0xF255 := by decide

/-! ### Control flow -/

/-- T1. -/
theorem test_jp_odd : ran 0x1201 State.reset State.pc = some 0x201 := by decide
/-- T2. -/
theorem test_jp_self : ran 0x1200 State.reset State.pc = some 0x200 := by decide
/-- T3. -/
theorem test_call : ran 0x220E (atPc 0x204 State.reset) (fun t => (t.pc, t.sp, t.stack[0])) =
    some (0x20E, 1, 0x206) := by decide
/-- T4: the return address wraps. -/
theorem test_call_wraps : ran 0x2ABC (atPc 0xFFE State.reset) (fun t => (t.pc, t.sp, t.stack[0])) =
    some (0xABC, 1, 0) := by decide
/-- T5. -/
theorem test_call_overflow : ran 0x2300 (stacked 12 0x202 State.reset) (fun t => (t.fault, t.pc, t.sp)) =
    some (.stackOverflow, 0x200, 12) := by decide
/-- T6. -/
theorem test_ret : ran 0x00EE (atPc 0x210 (stacked 1 0x206 State.reset)) (fun t => (t.pc, t.sp)) =
    some (0x206, 0) := by decide
/-- T7. -/
theorem test_ret_underflow : ran 0x00EE State.reset (fun t => (t.fault, t.pc, t.sp)) =
    some (.stackUnderflow, 0x200, 0) := by decide
/-- T8, T9. -/
theorem test_seImm : ran 0x332A (regs [(3, 0x2A)]) State.pc = some 0x204 ∧
    ran 0x332A (regs [(3, 0x2B)]) State.pc = some 0x202 := by decide
/-- T18, T19: the advance wraps, taken and not. -/
theorem test_seImm_wraps : ran 0x3000 (atPc 0xFFC State.reset) State.pc = some 0 ∧
    ran 0x3000 (atPc 0xFFE (regs [(0, 1)])) State.pc = some 0 := by decide
/-- T10, T11. -/
theorem test_sneImm : ran 0x432A (regs [(3, 0x2A)]) State.pc = some 0x202 ∧
    ran 0x4300 (regs [(3, 0x2A)]) State.pc = some 0x204 := by decide
/-- T12, T13. -/
theorem test_seReg : ran 0x5120 (regs [(1, 7), (2, 7)]) State.pc = some 0x204 ∧
    ran 0x5120 (regs [(1, 7), (2, 8)]) State.pc = some 0x202 := by decide
/-- T15, T16. -/
theorem test_sneReg : ran 0x9120 (regs [(1, 7), (2, 8)]) State.pc = some 0x204 ∧
    ran 0x9120 (regs [(1, 7), (2, 7)]) State.pc = some 0x202 := by decide
/-- T19b, T19c. -/
theorem test_jpV0 : ran 0xB300 (regs [(0, 4)]) State.pc = some 0x304 ∧
    ran 0xBFFF (regs [(0, 0xFF)]) State.pc = some 0x0FE := by decide
/-- T19a: the fetch wraps from 0xFFF to 0x000. -/
theorem test_fetch_wraps : ran 0x6A11 (atPc 0xFFF State.reset) (fun t => (t.v[10], t.pc)) =
    some (0x11, 1) := by decide

/-! ### Arithmetic and logic -/

/-- T20. -/
theorem test_addReg_carry : ran 0x8124 (regs [(1, 0xFF), (2, 1)]) (fun t => (t.v[1], t.v[15])) = some (0, 1) := by decide
/-- T24: with X = 15 the flag is written last. -/
theorem test_addReg_vf : ran 0x8F14 (regs [(15, 0xF0), (1, 0x20)]) (fun t => (t.v[15], t.v[1])) =
    some (1, 0x20) := by decide
/-- T27. -/
theorem test_sub_borrow : ran 0x8125 (regs [(1, 5), (2, 6)]) (fun t => (t.v[1], t.v[15])) = some (0xFF, 0) := by decide
/-- T26: equal operands do not borrow. -/
theorem test_sub_equal : ran 0x8125 (regs [(1, 0x10), (2, 0x10)]) (fun t => (t.v[1], t.v[15])) = some (0, 1) := by decide
/-- T31. -/
theorem test_subn : ran 0x8127 (regs [(1, 5), (2, 6)]) (fun t => (t.v[1], t.v[15], t.v[2])) =
    some (1, 1, 6) := by decide
/-- T32. -/
theorem test_subn_borrow : ran 0x8127 (regs [(1, 6), (2, 5)]) (fun t => (t.v[1], t.v[15])) = some (0xFF, 0) := by decide
/-- T34. -/
theorem test_shr_modern : ran 0x8126 (under cfgN (regs [(1, 5), (2, 0xAA)])) (fun t => (t.v[1], t.v[15], t.v[2])) =
    some (2, 1, 0xAA) := by decide
/-- T36. -/
theorem test_shr_legacy : ran 0x8126 (under cfgL (regs [(1, 0xAA), (2, 5)])) (fun t => (t.v[1], t.v[15], t.v[2])) =
    some (2, 1, 5) := by decide
/-- T40. -/
theorem test_shl_modern : ran 0x812E (under cfgN (regs [(1, 0x81)])) (fun t => (t.v[1], t.v[15])) =
    some (2, 1) := by decide
/-- T41. -/
theorem test_shl_legacy : ran 0x812E (under cfgL (regs [(1, 0xFF), (2, 0x40)])) (fun t => (t.v[1], t.v[15])) =
    some (0x80, 0) := by decide
/-- T44, T45. -/
theorem test_or : ran 0x8121 (under cfgL (regs [(1, 0xF0), (2, 0x0F), (15, 1)])) (fun t => (t.v[1], t.v[15])) =
      some (0xFF, 0) ∧
    ran 0x8121 (under cfgN (regs [(1, 0xF0), (2, 0x0F), (15, 1)])) (fun t => (t.v[1], t.v[15])) =
      some (0xFF, 1) := by decide
/-- T49, T50. -/
theorem test_or_vf : ran 0x8F21 (under cfgL (regs [(15, 0x80), (2, 1)])) (fun t => t.v[15]) = some 0 ∧
    ran 0x8F21 (under cfgN (regs [(15, 0x80), (2, 1)])) (fun t => t.v[15]) = some 0x81 := by decide
/-- T46. -/
theorem test_and : ran 0x8122 (under cfgL (regs [(1, 0xF0), (2, 0x3C), (15, 1)])) (fun t => (t.v[1], t.v[15])) =
    some (0x30, 0) := by decide
/-- T51: the old VF is read first. -/
theorem test_and_vf : ran 0x81F2 (under cfgL (regs [(1, 0xFF), (15, 0x0F)])) (fun t => (t.v[1], t.v[15])) =
    some (0x0F, 0) := by decide
/-- T47. -/
theorem test_xor : ran 0x8123 (under cfgN (regs [(1, 0xF0), (2, 0xFF), (15, 1)])) (fun t => (t.v[1], t.v[15])) =
    some (0x0F, 1) := by decide
/-- T48. -/
theorem test_xor_legacy : ran 0x8113 (under cfgL (regs [(1, 0x5A), (15, 7)])) (fun t => (t.v[1], t.v[15])) =
    some (0, 0) := by decide
/-- T52. -/
theorem test_addImm : ran 0x7102 (regs [(1, 0xFF), (15, 9)]) (fun t => (t.v[1], t.v[15])) = some (1, 9) := by decide
/-- T55. -/
theorem test_ldReg : ran 0x8120 (regs [(2, 0x33), (15, 8)]) (fun t => (t.v[1], t.v[2], t.v[15])) =
    some (0x33, 0x33, 8) := by decide
/-- T56, T57. -/
theorem test_ldImm : ran 0x6F2A State.reset (fun t => t.v[15]) = some 0x2A ∧
    ran 0x6000 (regs [(0, 0x99)]) (fun t => (t.v[0], t.pc)) = some (0, 0x202) := by decide

/-! ### Index register and memory -/

/-- T61. -/
theorem test_ldI : ran 0xAFFF State.reset State.i = some 0x0FFF := by decide
/-- T63, T64: no wrap at 4096, a wrap at 65536, no flag. -/
theorem test_addI : ran 0xF21E (index 0x0FFF (regs [(2, 1), (15, 7)])) (fun t => (t.i, t.v[15])) = some (0x1000, 7) ∧
    ran 0xF21E (index 0xFFFF (regs [(2, 2)])) State.i = some 1 := by decide
/-- T65, T66. -/
theorem test_ldF : ran 0xF229 (regs [(2, 0x0A)]) State.i = some 0x32 ∧
    ran 0xF229 (regs [(2, 0xFF)]) State.i = some 0x04FB := by decide
/-- T68. -/
theorem test_ldB : ran 0xF333 (index 0x300 (regs [(3, 215)])) (fun t => (three 0x300 t, t.i)) =
    some ([2, 1, 5], 0x300) := by decide
/-- T70, T71: the highest legal base, and the first that faults. -/
theorem test_ldB_edge : ran 0xF333 (index 4093 (regs [(3, 123)])) (three 4093) = some [1, 2, 3] ∧
    ran 0xF333 (index 4094 (regs [(3, 123)])) (fun t => (t.fault, t.pc, t.mem.read 4094)) =
      some (.memoryAccessOutOfBounds, 0x200, 0) := by decide
/-- T74, T75. -/
theorem test_ldMemVx_edge :
    ran 0xF055 (under cfgL (index 4095 (regs [(0, 0x10)]))) (fun t => (t.mem.read 4095, t.i)) = some (0x10, 0x1000) ∧
    ran 0xF055 (under cfgN (index 4095 (regs [(0, 0x10)]))) (fun t => (t.mem.read 4095, t.i)) = some (0x10, 0x0FFF) := by
  decide
/-- T76, and S3's dump. -/
theorem test_ldMemVx : ran 0xF155 (index 4095 (regs [(0, 0x10)])) (fun t => (t.fault, t.mem.read 4095)) =
      some (.memoryAccessOutOfBounds, 0) ∧
    ran 0xF255 (index 0x300 (regs [(0, 0x10), (1, 0x11), (2, 0x12), (3, 0x13)]))
      (fun t => (three 0x300 t, t.mem.read 0x303, t.i)) = some ([0x10, 0x11, 0x12], 0, 0x303) := by decide
/-- S3's load from the default font (`F0 90 90`), under both settings; `V[3]` keeps its value. -/
theorem test_ldVxMem :
    ran 0xF265 (under cfgL (regs [(3, 9)])) (fun t => (t.v[0], t.v[1], t.v[2], t.v[3], t.i)) =
      some (0xF0, 0x90, 0x90, 9, 3) ∧
    ran 0xF265 (under cfgN (regs [(3, 9)])) (fun t => (t.v[0], t.v[2], t.i)) = some (0xF0, 0x90, 0) := by decide
/-- S9: the two-byte load at 4095 faults and changes no register; the one-byte load does not. -/
theorem test_ldVxMem_edge :
    ran 0xF165 (index 4095 (regs [(0, 7)])) (fun t => (t.fault, t.v[0], t.pc)) =
      some (.memoryAccessOutOfBounds, 7, 0x200) ∧
    ran 0xF065 (index 4095 (regs [(0, 7)])) (fun t => (t.fault, t.v[0], t.pc)) = some (.none, 0, 0x202) := by decide

/-! ### Display -/

/-- T90. -/
theorem test_cls : ran 0x00E0 (lit [(0, 0), (63, 31), (10, 5)] (regs [(15, 1)]))
    (fun t => (look [(0, 0), (63, 31), (10, 5)] t, t.v[15])) = some ([false, false, false], 1) := by decide
/-- T92: the start position wraps, the sprite is clipped, one cell collides. -/
theorem test_drw_clips : ran 0xD015 (lit [(63, 30)] (regs [(0, 126), (1, 62)]))
    (fun t => (look [(62, 30), (63, 30), (62, 31), (63, 31), (0, 30), (62, 0)] t, t.v[15])) =
    some ([true, false, true, false, false, false], 1) := by decide
/-- T94: the old VF is the column; T95: with N = 0 nothing is read and VF is 0. -/
theorem test_drw_vf : ran 0xDF15 (regs [(15, 3)])
    (fun t => (look [(2, 0), (3, 0), (6, 0), (7, 0), (3, 1), (4, 1), (6, 3), (5, 4), (3, 5)] t, t.pc)) =
    some ([false, true, true, false, true, false, true, true, false], 0x202) ∧
    ran 0xD120 (index 0xFFFF (regs [(1, 5), (2, 5), (15, 9)])) (fun t => (t.v[15], t.fault)) = some (0, .none) := by decide

/-! ### Keys, timer, random, unrecognized words -/

/-- T100, T101. -/
theorem test_skp : ran 0xE49E (pressed [7] (regs [(4, 7)])) State.pc = some 0x204 ∧
    ran 0xE49E (regs [(4, 7)]) State.pc = some 0x202 := by decide
/-- T102: only the low 4 bits select the key. -/
theorem test_skp_masks : ran 0xE49E (pressed [10] (regs [(4, 0x1A)])) State.pc = some 0x204 := by decide
/-- T103, T104. -/
theorem test_sknp : ran 0xE4A1 (regs [(4, 7)]) State.pc = some 0x204 ∧
    ran 0xE4A1 (pressed [7] (regs [(4, 7)])) State.pc = some 0x202 := by decide
/-- T105. -/
theorem test_ldVxDt : ran 0xF507 ({ State.reset with dt := 0x3C }) (fun t => (t.v[5], t.dt, t.pc)) =
    some (0x3C, 0x3C, 0x202) := by decide
/-- T106. -/
theorem test_ldDtVx : ran 0xF515 (regs [(5, 0x3C)]) (fun t => (t.dt, t.pc)) = some (0x3C, 0x202) := by decide
/-- T107, T108: the fields the spec fixes whatever the random byte is. -/
theorem test_rnd : ran 0xC10F (regs [(2, 5)]) (fun t => (t.pc, t.v[2], t.i)) = some (0x202, 5, 0) := by decide
/-- T109d, T109e. -/
theorem test_ldVxK_press : ran 0xF30A State.reset (fun t => (t.pc, t.awaitValid)) = some (0x200, false) ∧
    ran 0xF30A (pressed [7, 9] State.reset) (fun t => (t.pc, t.awaitValid, t.awaitKey, t.v[3])) =
      some (0x200, true, 7, 0) := by decide
/-- T109f, T109g. -/
theorem test_ldVxK_release :
    ran 0xF30A (awaiting 7 (pressed [7] State.reset)) (fun t => (t.pc, t.awaitValid, t.v[3])) =
      some (0x200, true, 0) ∧
    ran 0xF30A (awaiting 7 (pressed [9] State.reset)) (fun t => (t.pc, t.awaitValid, t.v[3])) =
      some (0x202, false, 7) := by decide
/-- T116: the conventional sound timer does nothing. -/
theorem test_unrecognized : ran 0xF018 ({ regs [(0, 5)] with dt := 3 }) (fun t => (t.pc, t.v[0], t.dt, t.fault)) =
    some (0x202, 5, 3, .none) := by decide

/-! ### Gate, outcomes, host transactions -/

/-- T120, T122: a refused STEP changes nothing. -/
theorem test_gate : step { State.reset with runState := .paused } = .next { State.reset with runState := .paused } ∧
    step { State.reset with fault := .stackUnderflow } = .next { State.reset with fault := .stackUnderflow } :=
  ⟨rfl, rfl⟩
/-- R97: the five outcomes, on T120, T2, T110, T109d, T7. -/
theorem test_outcomes :
    stepOutcome { State.reset with runState := .paused } = .refused ∧
    stepOutcome (State.reset.withFetchWord 16 0x1200) = .executed ∧
    stepOutcome State.reset = .executedUnrecognized 0 ∧
    stepOutcome (State.reset.withFetchWord 16 0xF30A) = .waiting ∧
    stepOutcome (State.reset.withFetchWord 16 0x00EE) = .fault .stackUnderflow := by decide
/-- T109a, T109b. -/
theorem test_tick : (tick { State.reset with dt := 1 }).dt = 0 ∧ (tick State.reset).dt = 0 := by decide
/-- T124: Halted is absorbing. -/
theorem test_halted_absorbs :
    (setRunState .running (setRunState .halted State.reset)).runState = .halted ∧
    (setRunState .running (setRunState .paused State.reset)).runState = .running := by decide
/-- T109c by way of the agenda: a TICK acts while paused. -/
theorem test_agenda_tick :
    (match step { State.reset with runState := .paused, dt := 5, agenda := [.tick, .step] } with
      | .next t => some (t.dt, t.agenda)
      | _ => none) = some (4, [.step]) := by decide
/-- R57, D19: a machine with another FONT gets that FONT back from a RESET in session, and keeps it. -/
theorem test_reset_font :
    (match step { State.reset with font := Vector.replicate 80 7, agenda := [.reset [] cfgL] } with
      | .next t => some (t.mem.read 0, t.mem.read 79, t.mem.read 80, t.font[5])
      | _ => none) = some (7, 7, 0, 7) := by decide +kernel
/-- R233: a repeating plan ticks, and comes round again. -/
theorem test_plan_repeats :
    (match step (planned (.repeating .tick [.step])) with
      | .next t => some (t.dt, t.agenda, t.plan)
      | _ => none) = some (2, [.step], .repeating .tick [.step]) := by decide
/-- R233, U6: under a free plan a step is the host's free choice, the one after it the next. -/
theorem test_plan_free : step (planned (.free 3)) = transact (Config.hostChoice 3) (planned (.free 4)) := rfl
/-- T133. -/
theorem test_reset_image :
    (match resetWith defaultFont [0x12] cfgN with
      | .next t => some (t.mem.read 0x200, t.mem.read 0x201, t.fetched, t.cfg)
      | _ => none) = some (0x12, 0, .jp 0x200, cfgN) := by decide +kernel
/-- T131, through the machine's step. -/
theorem test_reset_too_large (image : List Byte) (h : image.length = 3585) :
    step { State.reset with agenda := [.reset image cfgL] } = .fault .imageTooLarge := by
  have hn : ¬ image.length ≤ Config.imageMax := Nat.not_le.mpr (h ▸ Nat.lt_succ_self 3584)
  show transact (.reset image cfgL) _ = _
  simp only [transact, resetWith, if_neg hn]

/-! ### Witnesses: for every obligation with hypotheses, states and operands that meet them, clause by clause -/

/-- O1: underflow at sp = 0; a pop at sp = 1 and at sp = 12; a CALL at sp = 11. -/
theorem witness_RetPopsOrUnderflows :
    State.reset.sp.val = 0 ∧
    (0 < (stacked 1 0x206 State.reset).sp.val ∧
      (stacked 1 0x206 State.reset).stack[(stacked 1 0x206 State.reset).sp.val - 1]? = some 0x206) ∧
    (0 < (stacked 12 0xFFF State.reset).sp.val ∧
      (stacked 12 0xFFF State.reset).stack[(stacked 12 0xFFF State.reset).sp.val - 1]? = some 0xFFF ∧
      (0xFFF : Word).toNat < 4096) ∧
    (stacked 11 0x206 State.reset).sp.val < 12 := by decide

/-- O3: both sides of the capacity. -/
theorem witness_CallPushesOrOverflows :
    (stacked 12 0x202 State.reset).sp.val = 12 ∧ (stacked 11 0x202 State.reset).sp.val < 12 ∧
    State.reset.sp.val < 12 := by decide

/-- O4: an empty stack with 12 and with 13 targets; and a CALL that records the overflow. -/
theorem witness_TwelveNestedCallsThenOverflow :
    (State.reset.sp.val = 0 ∧ State.reset.fault = .none ∧ ((List.range 12).map (BitVec.ofNat 12)).length ≤ 12 ∧
      ((List.range 13).map (BitVec.ofNat 12)).length = 13) ∧
    ((stacked 12 0x202 State.reset).fault = .none ∧
      ∃ t, exec (.call 0x200) (stacked 12 0x202 State.reset) = .next t ∧ t.fault = .stackOverflow) :=
  ⟨by decide, by decide, _, rfl, rfl⟩

/-- O6: the least and the greatest low nibble that is not 0. -/
theorem witness_SkipsOnRegisters : (1 : Nibble) ≠ 0 ∧ (15 : Nibble) ≠ 0 := by decide

/-- O10. -/
theorem witness_BitwiseResultAndLegacyFlag :
    (under cfgL State.reset).cfg.legacyBitwiseClearsFlag = true ∧
    (under cfgN State.reset).cfg.legacyBitwiseClearsFlag = false := by decide

/-- O13: the source in both settings, with different registers. -/
theorem witness_ShiftsAndShiftedOutBit :
    (5 : Byte) = (if (under cfgL (regs [(1, 0xAA), (2, 5)])).cfg.legacyShiftSource
      then (under cfgL (regs [(1, 0xAA), (2, 5)])).v[2] else (under cfgL (regs [(1, 0xAA), (2, 5)])).v[1]) ∧
    (0xAA : Byte) = (if (under cfgN (regs [(1, 0xAA), (2, 5)])).cfg.legacyShiftSource
      then (under cfgN (regs [(1, 0xAA), (2, 5)])).v[2] else (under cfgN (regs [(1, 0xAA), (2, 5)])).v[1]) := by decide

/-- O14: a flag instruction that does not fault, a sum of 256 and of 255, a difference of equals. -/
theorem witness_FlagIsZeroOrOne :
    (writesFlag State.reset.cfg (.drw 0 1 5) = true ∧ faultOf State.reset (.drw 0 1 5) = .none ∧
      ∃ t, exec (.drw 0 1 5) State.reset = .next t) ∧
    (∃ t, exec (.addReg 1 2) (regs [(1, 0xFF), (2, 1)]) = .next t) ∧
    (∃ t, exec (.addReg 1 2) (regs [(1, 0xFF)]) = .next t) ∧
    (∃ t, exec (.sub 1 2) (regs [(1, 5), (2, 5)]) = .next t) :=
  ⟨⟨by decide, by decide, _, rfl⟩, ⟨_, rfl⟩, ⟨_, rfl⟩, ⟨_, rfl⟩⟩

/-- O16: both sides of the last base. -/
theorem witness_LdBStoresDecimalDigits :
    (index 4093 State.reset).i.toNat + 2 ≤ 4095 ∧ 4095 < (index 4094 State.reset).i.toNat + 2 ∧
    4095 < (index 0xFFFF State.reset).i.toNat + 2 := by decide

/-- O17: both sides of the edge, for one byte and for sixteen; the registers below and at X. -/
theorem witness_LdMemVxStoresRegisters :
    (index 4095 State.reset).i.toNat + (0 : Reg).val ≤ 4095 ∧ (index 4080 State.reset).i.toNat + (15 : Reg).val ≤ 4095 ∧
    4095 < (index 4096 State.reset).i.toNat + (0 : Reg).val ∧ 4095 < (index 4081 State.reset).i.toNat + (15 : Reg).val ∧
    (0 : Reg) ≤ 0 ∧ (15 : Reg) ≤ 15 := by decide

/-- O18: both sides of the edge. -/
theorem witness_LdVxMemLoadsRegisters :
    (index 4095 State.reset).i.toNat + (0 : Reg).val ≤ 4095 ∧ (index 4080 State.reset).i.toNat + (15 : Reg).val ≤ 4095 ∧
    4095 < (index 4095 State.reset).i.toNat + (1 : Reg).val ∧ 4095 < (index 4081 State.reset).i.toNat + (15 : Reg).val := by
  decide

/-- O20: no row at any I, one row at 4095, wrapped coordinates; then two rows at 4095 and one at 4096. -/
theorem witness_DrwFlipsSpriteCells :
    ((0 : Nibble).toNat = 0 ∨ (index 0xFFFF State.reset).i.toNat + (0 : Nibble).toNat - 1 ≤ 4095) ∧
    (((1 : Nibble).toNat = 0 ∨ (index 4095 (regs [(0, 126), (1, 62)])).i.toNat + (1 : Nibble).toNat - 1 ≤ 4095) ∧
      62 = (index 4095 (regs [(0, 126), (1, 62)])).v[0].toNat % 64 ∧
      30 = (index 4095 (regs [(0, 126), (1, 62)])).v[1].toNat % 32) ∧
    (1 ≤ (2 : Nibble).toNat ∧ 4095 < (index 4095 State.reset).i.toNat + (2 : Nibble).toNat - 1) ∧
    (1 ≤ (1 : Nibble).toNat ∧ 4095 < (index 4096 State.reset).i.toNat + (1 : Nibble).toNat - 1) := by decide

/-- O21: the same two sides, and the pair the loops give. -/
theorem witness_DrwMeetsItsPseudocode :
    (¬ (1 ≤ (1 : Nibble).toNat ∧ 4095 < (index 4095 State.reset).i.toNat + (1 : Nibble).toNat - 1) ∧
      ∃ p, p = drwRows State.reset.mem 4095 0 0 (List.range 1) (State.reset.fb, false)) ∧
    (1 ≤ (2 : Nibble).toNat ∧ 4095 < (index 4095 State.reset).i.toNat + (2 : Nibble).toNat - 1) :=
  ⟨⟨by decide, _, rfl⟩, by decide⟩

/-- O22: glyph 0, and the degenerate sprite of no row. -/
theorem witness_DrawTwiceRestores :
    ((0 : Reg) ≠ 15 ∧ (14 : Reg) ≠ 15 ∧ ((5 : Nibble).toNat = 0 ∨ State.reset.i.toNat + (5 : Nibble).toNat - 1 ≤ 4095)) ∧
    ((0 : Nibble).toNat = 0 ∧
      ∀ (y : Fin 32) (x : Fin 64), State.reset.spritePixel 0 0 (0 : Nibble).toNat x.val y.val = false) := by
  refine ⟨by decide, by decide, fun y x => ?_⟩
  simp only [State.spritePixel, Bool.and_eq_false_iff, decide_eq_false_iff_not]
  exact .inl fun h => by
    have := h.2.2
    simp at this

/-- O23: the low 4 bits of 0x1A. -/
theorem witness_SkipsOnKey : (10 : Key).val = (regs [(4, 0x1A)]).v[4].toNat % 16 := by decide

/-- O25: each clause, the least pressed key being 0 and being 7. -/
theorem witness_AwaitKeyOneStep :
    (State.reset.awaitValid = false ∧ ∀ k : Key, State.reset.key[k] = false) ∧
    ((pressed [7, 9] State.reset).awaitValid = false ∧ (pressed [7, 9] State.reset).key[(7 : Key)] = true ∧
      ∀ j : Key, j < 7 → (pressed [7, 9] State.reset).key[j] = false) ∧
    ((pressed [0] State.reset).key[(0 : Key)] = true ∧ ∀ j : Key, j < 0 → (pressed [0] State.reset).key[j] = false) ∧
    ((awaiting 7 (pressed [7] State.reset)).awaitValid = true ∧
      (awaiting 7 (pressed [7] State.reset)).key[(awaiting 7 (pressed [7] State.reset)).awaitKey] = true) ∧
    ((awaiting 15 (pressed [7] State.reset)).awaitValid = true ∧
      (awaiting 15 (pressed [7] State.reset)).key[(awaiting 15 (pressed [7] State.reset)).awaitKey] = false) ∧
    ((State.reset.withFetchWord 16 0xF30A).runState = .running ∧ (State.reset.withFetchWord 16 0xF30A).fault = .none ∧
      (State.reset.withFetchWord 16 0xF30A).fetched = .ldVxK 3) := by decide

/-- P6's machine: F30A at pc, keys 7 and 9 pressed, then key 7 released. -/
def waiter : State :=
  { State.reset.withFetchWord 16 0xF30A with
    agenda := [.setKeys (pressed [7, 9] State.reset).key, .step, .setKeys (pressed [9] State.reset).key, .step] }

/-- O26. -/
theorem witness_AwaitKeyCompletesOnRelease :
    waiter.runState = .running ∧ waiter.fault = .none ∧ waiter.awaitValid = false ∧ waiter.fetched = .ldVxK 3 ∧
    waiter.agenda =
      [.setKeys (pressed [7, 9] State.reset).key, .step, .setKeys (pressed [9] State.reset).key, .step] ∧
    (pressed [7, 9] State.reset).key[(7 : Key)] = true ∧
    (∀ j : Key, j < 7 → (pressed [7, 9] State.reset).key[j] = false) ∧
    (pressed [9] State.reset).key[(7 : Key)] = false := by decide

/-- O27: a bit outside the mask. -/
theorem witness_RndMasksTheFreeByte : (0x0F : Byte).getLsbD 4 = false := by decide

/-- O28. -/
theorem witness_UnrecognizedOnlyAdvances :
    unrecognizedWord 0xF018 ∧ State.reset.runState = .running ∧ State.reset.fault = .none ∧
    State.reset.fetched = .unrecognized 0 := by decide

/-- O29: a well-formed instruction with every field at its top, and a well-formed unrecognized word. -/
theorem witness_DecodeOfEncodeIsIdentity :
    (Instr.drw 15 15 15).wellFormed = true ∧ (Instr.unrecognized 0x0123).wellFormed = true := by decide

/-- O31: a row that a word selects. -/
theorem witness_DecoderFollowsOpcodeTable :
    (⟨.addReg, 0xF00F, 0x8004⟩ : OpcodeRow) ∈ opcodeTable ∧
    (⟨.addReg, 0xF00F, 0x8004⟩ : OpcodeRow).selects 0x8124 = true := by decide

/-- O32. -/
theorem witness_UnrecognizedWordsExactly : decodeWord 0xFFFF = .unrecognized 0xFFFF := by decide

/-- O34: an open gate, an agenda that begins with a transaction, a repeating and a free plan. -/
theorem witness_StepRunsDecodedInstruction :
    ((State.reset.withFetchWord 16 0x1200).Ready ∧
      (State.reset.withFetchWord 16 0x1200).runState = .running ∧ (State.reset.withFetchWord 16 0x1200).fault = .none ∧
      decode (State.reset.withFetchWord 16 0x1200).fetchBytes = .ok (.jp 0x200, [])) ∧
    waiter.agenda = .setKeys (pressed [7, 9] State.reset).key :: waiter.agenda.tail ∧
    ((planned (.repeating .tick [])).agenda = [] ∧ (planned (.repeating .tick [])).plan = .repeating .tick []) ∧
    ((planned (.free 3)).agenda = [] ∧ (planned (.free 3)).plan = .free 3) :=
  ⟨⟨⟨rfl, rfl, rfl, rfl⟩, rfl, rfl, by decide⟩, rfl, ⟨rfl, rfl⟩, rfl, rfl⟩

/-- O35: the last address. -/
theorem witness_FetchIsBigEndianAndWraps : (atPc 0xFFF State.reset).pc.toNat < 4096 := by decide

/-- A paused machine. -/
def idle : State := { State.reset with runState := .paused }

/-- A machine with a recorded fault. -/
def faulted : State := { State.reset with fault := .stackUnderflow }

/-- O36. -/
theorem witness_ClosedGateRefusesStep :
    (idle.runState ≠ .running ∨ idle.fault ≠ .none) ∧ (faulted.runState ≠ .running ∨ faulted.fault ≠ .none) ∧
    (State.reset.runState = .running ∧ State.reset.fault = .none) := by decide

/-- A machine about to underflow its stack. -/
def returner : State := State.reset.withFetchWord 16 0x00EE

/-- O37: a step that faults, and one each that is unrecognized, waits and executes. -/
theorem witness_StepOutcomeIsOneOfFive :
    (returner.runState = .running ∧ returner.fault = .none ∧
      ∃ t, transact .step returner = .next t ∧ t.fault ≠ .none) ∧
    (State.reset.fetched = .unrecognized 0 ∧ ∃ t, transact .step State.reset = .next t ∧ t.fault = .none) ∧
    ((State.reset.withFetchWord 16 0xF30A).fetched = .ldVxK 3 ∧
      ∃ t, transact .step (State.reset.withFetchWord 16 0xF30A) = .next t ∧ t.fault = .none) ∧
    ((State.reset.withFetchWord 16 0x1200).fetched = .jp 0x200 ∧
      ∃ t, transact .step (State.reset.withFetchWord 16 0x1200) = .next t ∧ t.fault = .none) ∧
    idle.runState ≠ .running :=
  ⟨⟨rfl, rfl, _, rfl, by decide⟩, ⟨by decide, _, rfl, rfl⟩, ⟨by decide, _, rfl, rfl⟩, ⟨by decide, _, rfl, rfl⟩,
    by decide⟩

/-- O38. -/
theorem witness_TickDecrementsDelayTimer : ∃ t, exec (.ldDtVx 5) (regs [(5, 3)]) = .next t := ⟨_, rfl⟩

/-- O39. -/
theorem witness_SetKeysIsTheOnlyLatchWriter : ∃ t, transact .tick (pressed [7] State.reset) = .next t := ⟨_, rfl⟩

/-- O40. -/
theorem witness_RunStateMovesOnlyByRequest : ∃ t, transact .step idle = .next t := ⟨_, rfl⟩

/-- O41, O42: images of 3584 and of 3585 bytes, and the empty one. -/
theorem witness_ResetChecksImageSize :
    (List.replicate 3584 (1 : Byte)).length ≤ 3584 ∧ 3584 < (List.replicate 3585 (1 : Byte)).length ∧
    ([] : List Byte).length ≤ 3584 := by
  rw [List.length_replicate, List.length_replicate]
  exact ⟨Nat.le_refl _, Nat.lt_succ_self _, Nat.zero_le _⟩

/-- O42: the bounds of each range of addresses, with an image of two bytes. -/
theorem witness_ResetStateIsAsListed :
    ([0x12, 0x00] : List Byte).length ≤ 3584 ∧ (80 ≤ 511 ∧ 511 < 512) ∧ 1 < ([0x12, 0x00] : List Byte).length ∧
    (512 + ([0x12, 0x00] : List Byte).length ≤ 514 ∧ 4095 ≤ 4095) := by decide

/-- O43, O46: a RESET that gives a state. -/
theorem witness_FirstFetchIsAtProgramBase : ∃ t, resetWith defaultFont [0x12] cfgN = .next t := ⟨_, rfl⟩

/-- O46: with a FONT that is not the default one. -/
theorem witness_EveryResetMeetsInvariant : ∃ t, resetWith (Vector.replicate 80 1) [] cfgL = .next t := ⟨_, rfl⟩

/-- O47: a full stack, a listed byte of memory, and a step that answers a next state. -/
theorem witness_EveryStepKeepsInvariant :
    ({ stacked 12 0xFFF State.reset with mem := [(0x300, 1)] } : State).Inv ∧
    ∃ t, step { stacked 12 0xFFF State.reset with mem := [(0x300, 1)] } = .next t :=
  ⟨⟨by decide, by decide, by decide⟩, _, rfl⟩

/-- O48: no fault, and each of the three. -/
theorem witness_FaultsExactlyWhenListed :
    faultOf State.reset (.call 0x200) = .none ∧ faultOf State.reset .ret ≠ .none ∧
    faultOf (stacked 12 0 State.reset) (.call 0x200) ≠ .none ∧ faultOf (index 4095 State.reset) (.ldB 0) ≠ .none ∧
    faultOf (index 4093 State.reset) (.ldB 0) = .none := by decide

/-- O49. -/
theorem witness_FaultsArePrecise :
    returner.runState = .running ∧ returner.fault = .none ∧
    ∃ t, transact .step returner = .next t ∧ t.fault ≠ .none := ⟨rfl, rfl, _, rfl, by decide⟩

/-- O50: a fault, a pause, and Halted; a STEP, a TICK and a SET_KEYS are no RESET, and which of the three each is. -/
theorem witness_ClosedGateFreezesTheMachine :
    (faulted.runState ≠ .running ∨ faulted.fault ≠ .none) ∧ (idle.runState ≠ .running ∨ idle.fault ≠ .none) ∧
    ({ State.reset with runState := .halted } : State).runState = .halted ∧
    (∀ (image : List Byte) (cfg : Cfg), HostAction.step ≠ .reset image cfg ∧ HostAction.tick ≠ .reset image cfg) ∧
    HostAction.step ≠ .tick ∧ (∀ latch, HostAction.tick ≠ .setKeys latch) ∧ (∀ r, HostAction.tick ≠ .setRunState r) :=
  ⟨by decide, by decide, rfl, fun _ _ => ⟨nofun, nofun⟩, nofun, nofun, nofun⟩

/-- O51: VF under a bitwise instruction that writes no flag, and a register beside the destination. -/
theorem witness_RegistersChangeOnlyByName :
    (writesReg 15 (.or 1 2) = false ∧ writesFlag (under cfgN State.reset).cfg (.or 1 2) = false ∧
      ∃ t, exec (.or 1 2) (under cfgN State.reset) = .next t) ∧
    (writesReg 2 (.addReg 1 2) = false ∧ (2 : Reg) ≠ 15 ∧ ∃ t, exec (.addReg 1 2) State.reset = .next t) :=
  ⟨⟨by decide, by decide, _, rfl⟩, by decide, by decide, _, rfl⟩

/-- O52. -/
theorem witness_EachStorageHasItsWriters : ∃ t, exec (.ldMemVx 1) (index 0x300 State.reset) = .next t := ⟨_, rfl⟩

/-- O53. -/
theorem witness_OnlySevenInstructionsReadCfg :
    dependsOnCfg (.addReg 1 2) = false ∧ ∃ t, exec (.addReg 1 2) State.reset = .next t := ⟨by decide, _, rfl⟩

/-- O54: a TICK, and a RESET. -/
theorem witness_CfgIsFixedForTheSession :
    (∃ t, transact .tick State.reset = .next t) ∧
    (∃ t, transact (.reset [] cfgN) State.reset = .next t) ∧
    (∀ (image : List Byte) (cfg : Cfg), HostAction.tick ≠ .reset image cfg) :=
  ⟨⟨_, rfl⟩, ⟨_, rfl⟩, fun _ _ h => by cases h⟩

/-- O55: T2. -/
theorem witness_JumpToSelfIsStable :
    (State.reset.withFetchWord 16 0x1200).Ready ∧
    (State.reset.withFetchWord 16 0x1200).pc = (0x200 : Addr).setWidth 16 ∧
    (State.reset.withFetchWord 16 0x1200).fetched = .jp 0x200 := ⟨⟨rfl, rfl, rfl, rfl⟩, by decide, by decide⟩

/-- O56: two bytes over the word after the first instruction and over the last word of memory; one byte at 4095;
three digits over the word after. -/
theorem witness_StoreIsSeenByNextFetch :
    (1 ≤ (1 : Reg).val ∧ (index 0x202 State.reset).i.toNat + (1 : Reg).val ≤ 4095 ∧
      (index 0x202 State.reset).i = (index 0x202 State.reset).pcPlus 2) ∧
    ((index 4094 (atPc 4092 State.reset)).i.toNat + (1 : Reg).val ≤ 4095 ∧
      (index 4094 (atPc 4092 State.reset)).i = (index 4094 (atPc 4092 State.reset)).pcPlus 2) ∧
    (index 4095 (atPc 4093 State.reset)).i = (index 4095 (atPc 4093 State.reset)).pcPlus 2 ∧
    ((index 4093 (atPc 4091 State.reset)).i.toNat + 2 ≤ 4095 ∧
      (index 4093 (atPc 4091 State.reset)).i = (index 4093 (atPc 4091 State.reset)).pcPlus 2) := by decide

/-- A machine whose FONT is not the default one. -/
def otherFont : State := { State.reset with font := Vector.replicate 80 7 }

/-- O57: a TICK and a RESET of that machine. -/
theorem witness_FontIsConstantAndCopied :
    (∃ t, transact .tick otherFont = .next t) ∧ (∃ t, transact (.reset [0x12] cfgN) otherFont = .next t) :=
  ⟨⟨_, rfl⟩, ⟨_, rfl⟩⟩

/-- O58: an agenda of two transactions and one later; a free plan. -/
theorem witness_EveryOrderOfTransactionsRuns :
    ({ planned .stepping with agenda := [.tick, .step, .tick] } : State).agenda = [.tick, .step] ++ [.tick] ∧
    ((planned (.free 3)).agenda = [] ∧ (planned (.free 3)).plan = .free 3) := ⟨rfl, rfl, rfl⟩

/-- O59. -/
theorem witness_HostMayTickForEver :
    (planned (.repeating .tick [])).agenda = [] ∧ (planned (.repeating .tick [])).plan = .repeating .tick [] :=
  ⟨rfl, rfl⟩

end Sys2Proof.Tests
end

section
/-! PROOFS. Steps of the machine as the transactions they perform (R3; log entry 2): O58. -/

namespace Sys2Proof.Machine

/-- One step and `k` more perform a transaction and then `acts`, whatever host's side `(g, p)` the step leaves and
whatever host's side `(g', p')` the transactions are read under: a transaction reads neither. -/
theorem run_succ_eq_transactAll_cons {s : State} {a : HostAction} {acts : List HostAction} {k : Nat}
    {g g' : List HostAction} {p p' : HostPlan} (hstep : step s = transact a (s.withHost g p))
    (hrest : ∀ t : State, t.agenda = g → t.plan = p →
      Host.Core.run Sys2Proof.core k t = transactAll acts (t.withHost g' p')) :
    Host.Core.run Sys2Proof.core (k + 1) s = transactAll (a :: acts) (s.withHost g' p') := by
  rw [run_succ, hstep, transactAll, transact_withHost, transact_withHost]
  cases transact a s with
  | next t => exact hrest (t.withHost g p) rfl rfl
  | fault e => rfl
  | refused e => rfl

/-- The head of the agenda is performed in order, and the rest of the agenda is kept. -/
theorem run_agenda (acts later : List HostAction) (s : State) (h : s.agenda = acts ++ later) :
    Host.Core.run Sys2Proof.core acts.length s = transactAll acts (s.withHost later s.plan) := by
  induction acts generalizing s with
  | nil =>
    have hs : s.withHost later s.plan = s := by rw [← show s.agenda = later from h]; rfl
    rw [hs]; rfl
  | cons a acts ih =>
    refine run_succ_eq_transactAll_cons (g := acts ++ later) (p := s.plan) (step_action h) fun t hg hp => ?_
    rw [ih t hg, hp]

/-- Under a free plan the next `k` free choices are performed in order. -/
theorem run_free (k n : Nat) (s : State) (h : s.agenda = []) (hp : s.plan = .free n) :
    Host.Core.run Sys2Proof.core k s =
      transactAll ((List.range k).map fun j => Config.hostChoice (n + j)) (s.withHost [] (.free (n + k))) := by
  induction k generalizing n s with
  | zero =>
    have hs : s.withHost [] (.free (n + 0)) = s := by rw [Nat.add_zero, ← h, ← hp]; rfl
    rw [hs]; rfl
  | succ k ih =>
    have hchoices : ((List.range (k + 1)).map fun j => Config.hostChoice (n + j)) =
        Config.hostChoice n :: (List.range k).map fun j => Config.hostChoice (n + 1 + j) := by
      simp [List.range_succ_eq_map, Function.comp_def, Nat.add_assoc, Nat.add_comm 1]
    have hstep : step s = transact (Config.hostChoice n) (s.withHost [] (.free (n + 1))) := by
      rw [step_free h hp, ← h]; rfl
    rw [hchoices]
    refine run_succ_eq_transactAll_cons hstep fun t hg hq => ?_
    rw [ih (n + 1) t hg hq, Nat.add_right_comm n 1 k, Nat.add_assoc n k 1]

/-- Settles O58: the head of an agenda and the choices of a free plan, each by induction on the transactions. -/
theorem everyOrderOfTransactionsRuns : Obligations.EveryOrderOfTransactionsRuns := by
  refine ⟨run_agenda, fun k n s h hp => ?_⟩
  rw [run_free k n s h hp, ← h]
  rfl

end Sys2Proof.Machine
end

section
/-! PROOFS. The machine state: what an instruction may do to it, said once (R94, R95), the invariant of R38, the register frame, and the configuration of a session: O45, O46, O47, O51, O54. -/

namespace Sys2Proof.Machine

/-! ### What an instruction may do

Every instruction builds its next state from the state before by the named operations below, each used only by the
instructions its field names. So a property kept by them is kept by `exec`. -/

/-- The property `P` is kept by every operation instruction `i` may use when it executes in state `s`. A field that is not
given is closed by the property not reading what the operation writes. -/
structure ClosedUnderOps (i : Instr) (s : State) (P : State → Prop) : Prop where
  setPc : ∀ {u : State} (n : Nat), P u → P (u.setPc n) := by intros; assumption
  setV : ∀ {u : State} {x : Reg} (b : Byte), writesReg x i = true → P u → P (u.setV x b) := by intros; assumption
  setVF : ∀ {u : State} (b : Byte), writesFlag s.cfg i = true → P u → P (u.setVF b) := by intros; assumption
  setAllV : ∀ {u : State} {x : Reg}, i = .ldVxMem x → P u → P (u.setAllV (s.loadedRegs x)) := by intros; assumption
  setI : ∀ {u : State} (n : Nat), ((∃ nnn, i = .ldI nnn) ∨ (∃ x, i = .addI x ∨ i = .ldF x) ∨
      (s.cfg.legacyIndexIncrementOnBulkTransfer = true ∧ ∃ x, i = .ldMemVx x ∨ i = .ldVxMem x)) →
    P u → P (u.setI n) := by intros; assumption
  push : ∀ {nnn : Addr} (h : s.sp.val < Config.stackCap), i = .call nnn → P s → P (s.push h s.advance.pc) := by
    intros; assumption
  drop : ∀ h : 0 < s.sp.val, i = .ret → P s → P (s.drop h) := by intros; assumption
  writeBytes : ∀ {u : State} (a : Nat) (bs : List Byte), (∃ x, i = .ldB x ∨ i = .ldMemVx x) →
    P u → P (u.writeBytes a bs) := by intros; assumption
  setDt : ∀ {x : Reg}, i = .ldDtVx x → P s → P (s.setDt (s.getV x)) := by intros; assumption
  setFb : ∀ fb : Framebuffer, (i = .cls ∨ ∃ x y n, i = .drw x y n) → P s → P (s.setFb fb) := by intros; assumption
  beginAwait : ∀ k : Key, (∃ x, i = .ldVxK x) → P s → P (s.beginAwait k) := by intros; assumption
  endAwait : ∀ {u : State}, (∃ x, i = .ldVxK x) → P u → P u.endAwait := by intros; assumption
  nextDraw : (∃ x nn, i = .rnd x nn) → P s → P s.nextDraw := by intros; assumption
  recordFault : ∀ c : FaultCause, P s → P (s.recordFault c) := by intros; assumption

section
variable {i : Instr} {s : State} {P : State → Prop} (hP : ClosedUnderOps i s P)
include hP

theorem ClosedUnderOps.advance {u : State} (hu : P u) : P u.advance := hP.setPc _ hu

theorem ClosedUnderOps.skipIf (hs : P s) (c : Bool) : ∃ t, skipIf s c = .next t ∧ P t :=
  ⟨_, skipIf_eq s c, hP.setPc _ hs⟩

theorem ClosedUnderOps.writeResult {u : State} (hu : P u) {x : Reg} (hx : writesReg x i = true) (r : Byte) :
    ∃ t, writeResult u x r = .next t ∧ P t :=
  ⟨_, rfl, hP.advance (hP.setV r hx hu)⟩

theorem ClosedUnderOps.writeResultFlag (hs : P s) {x : Reg} (hx : writesReg x i = true)
    (hf : writesFlag s.cfg i = true) (r f : Byte) : ∃ t, writeResultFlag s x r f = .next t ∧ P t :=
  ⟨_, rfl, hP.advance (hP.setVF f hf (hP.setV r hx hs))⟩

theorem ClosedUnderOps.writeBitwise (hs : P s) {x : Reg} (hx : writesReg x i = true)
    (hf : writesFlag s.cfg i = s.cfg.legacyBitwiseClearsFlag) (r : Byte) :
    ∃ t, writeBitwise s x r = .next t ∧ P t := by
  unfold Machine.writeBitwise
  split
  next hc => exact hP.writeResultFlag hs hx (hf.trans hc) r 0
  next => exact hP.writeResult hs hx r

theorem ClosedUnderOps.checkRange (hs : P s) {t : State} (ht : P t) (n : Nat) :
    ∃ u, checkRange s n t = .next u ∧ P u := by
  by_cases hr : outOfRange s.i.toNat n
  · exact ⟨_, checkRange_outside hr t, hP.recordFault _ hs⟩
  · exact ⟨_, checkRange_inside hr t, ht⟩

theorem ClosedUnderOps.bulkIndex {u : State} (hu : P u) (hcfg : u.cfg = s.cfg) {x : Reg}
    (hi : i = .ldMemVx x ∨ i = .ldVxMem x) : P (u.bulkIndex x) := by
  unfold State.bulkIndex
  split
  next hc => exact hP.setI _ (.inr (.inr ⟨hcfg ▸ hc, x, hi⟩)) hu
  next => exact hu

theorem ClosedUnderOps.execRet (hi : i = .ret) (hs : P s) : ∃ t, execRet s = .next t ∧ P t := by
  unfold Machine.execRet
  split
  next hsp => exact ⟨_, rfl, hP.setPc _ (hP.drop hsp hi hs)⟩
  next => exact ⟨_, rfl, hP.recordFault _ hs⟩

theorem ClosedUnderOps.execCall {nnn : Addr} (hi : i = .call nnn) (hs : P s) :
    ∃ t, execCall nnn s = .next t ∧ P t := by
  unfold Machine.execCall
  split
  next hsp => exact ⟨_, rfl, hP.setPc _ (hP.push hsp hi hs)⟩
  next => exact ⟨_, rfl, hP.recordFault _ hs⟩

theorem ClosedUnderOps.execLdVxK {x : Reg} (hi : i = .ldVxK x) (hx : writesReg x i = true) (hs : P s) :
    ∃ t, execLdVxK x s = .next t ∧ P t := by
  unfold Machine.execLdVxK
  split
  · split
    · exact ⟨_, rfl, hs⟩
    · exact ⟨_, rfl, hP.advance (hP.endAwait ⟨x, hi⟩ (hP.setV _ hx hs))⟩
  · split
    next k _ => exact ⟨_, rfl, hP.beginAwait k ⟨x, hi⟩ hs⟩
    next => exact ⟨_, rfl, hs⟩

end

/-- A property kept by the operations of an instruction is kept by the instruction, which answers a next state (R94). -/
theorem ClosedUnderOps.exec {i : Instr} {s : State} {P : State → Prop} (hP : ClosedUnderOps i s P) (hs : P s) :
    ∃ t, exec i s = .next t ∧ P t := by
  cases i with
  | cls => exact ⟨_, rfl, hP.advance (hP.setFb _ (.inl rfl) hs)⟩
  | ret => exact hP.execRet rfl hs
  | call nnn => exact hP.execCall rfl hs
  | jp | jpV0 => exact ⟨_, rfl, hP.setPc _ hs⟩
  | seImm | sneImm | seReg | sneReg | skp | sknp => exact hP.skipIf hs _
  | ldImm x | addImm x | ldReg x | ldVxDt x => exact hP.writeResult hs (beq_self_eq_true x) _
  | rnd x nn => exact hP.writeResult (hP.nextDraw ⟨x, nn, rfl⟩ hs) (beq_self_eq_true x) _
  | or x | and x | xor x => exact hP.writeBitwise hs (beq_self_eq_true x) rfl _
  | addReg x | sub x | shr x | subn x | shl x => exact hP.writeResultFlag hs (beq_self_eq_true x) rfl _ _
  | ldI nnn => exact ⟨_, rfl, hP.advance (hP.setI _ (.inl ⟨nnn, rfl⟩) hs)⟩
  | addI x => exact ⟨_, rfl, hP.advance (hP.setI _ (.inr (.inl ⟨x, .inl rfl⟩)) hs)⟩
  | ldF x => exact ⟨_, rfl, hP.advance (hP.setI _ (.inr (.inl ⟨x, .inr rfl⟩)) hs)⟩
  | drw x y n =>
    exact hP.checkRange hs (hP.advance (hP.setVF _ rfl (hP.setFb _ (.inr ⟨x, y, n, rfl⟩) hs))) _
  | ldB x => exact hP.checkRange hs (hP.advance (hP.writeBytes _ _ ⟨x, .inl rfl⟩ hs)) _
  | ldMemVx x =>
    exact hP.checkRange hs (hP.advance (hP.bulkIndex (hP.writeBytes _ _ ⟨x, .inr rfl⟩ hs) rfl (.inl rfl))) _
  | ldVxMem x => exact hP.checkRange hs (hP.advance (hP.bulkIndex (hP.setAllV rfl hs) rfl (.inr rfl))) _
  | ldDtVx => exact ⟨_, rfl, hP.advance (hP.setDt rfl hs)⟩
  | ldVxK x => exact hP.execLdVxK rfl (beq_self_eq_true x) hs
  | unrecognized => exact ⟨_, rfl, hP.advance hs⟩

/-- `ClosedUnderOps.exec` for a given next state. -/
theorem ClosedUnderOps.of_exec {i : Instr} {s t : State} {P : State → Prop} (hP : ClosedUnderOps i s P) (hs : P s)
    (h : Machine.exec i s = .next t) : P t := by
  obtain ⟨u, hu, hPu⟩ := hP.exec hs
  rw [h] at hu
  exact Host.Outcome.next.inj hu ▸ hPu

/-! ### RESET -/

/-- Everything a `RESET` that gives a state can give (R260 to R263). -/
theorem resetWith_cases {font : Vector Byte 80} {image : List Byte} {cfg : Cfg} {t : State}
    (h : resetWith font image cfg = .next t) :
    image.length ≤ Config.imageMax ∧
      t = { State.reset with
        mem := (Memory.writeBytes [] 0 font.toList).writeBytes Config.progBase image, cfg := cfg, font := font } := by
  unfold resetWith at h
  split at h
  next hlen => exact ⟨hlen, (Host.Outcome.next.inj h).symm⟩
  next => cases h

/-! ### The invariant -/

section
variable {s : State}

theorem State.Inv.setPc (hs : s.Inv) (n : Nat) : (s.setPc n).Inv := by
  obtain ⟨-, hstack, hmem⟩ := hs
  exact ⟨s.setPc_pc_lt n, hstack, hmem⟩

theorem State.Inv.writeBytes (hs : s.Inv) (a : Nat) (bs : List Byte) : (s.writeBytes a bs).Inv := by
  obtain ⟨hpc, hstack, hmem⟩ := hs
  exact ⟨hpc, hstack, Memory.wf_writeBytes hmem a bs⟩

/-- A push keeps the invariant when the word pushed is an address. -/
theorem State.Inv.push (hs : s.Inv) (h : s.sp.val < Config.stackCap) {w : Word} (hw : w.toNat < 4096) :
    (s.push h w).Inv := by
  obtain ⟨hpc, hstack, hmem⟩ := hs
  refine ⟨hpc, fun j hj => ?_, hmem⟩
  rw [State.push_sp] at hj
  rw [State.push_stack, Fin.getElem_fin]
  by_cases hj' : s.sp.val = j.val
  · simpa [hj'] using hw
  · rw [Vector.getElem_set_ne _ _ hj']
    exact hstack j (by omega)

/-- A pop keeps the invariant: the entries below the new `sp` are among those below the old. -/
theorem State.Inv.drop (hs : s.Inv) (h : 0 < s.sp.val) : (s.drop h).Inv := by
  obtain ⟨hpc, hstack, hmem⟩ := hs
  refine ⟨hpc, fun j hj => hstack j ?_, hmem⟩
  rw [State.drop_sp] at hj
  omega

/-- The operations of an instruction keep the invariant; only four of them write what it reads. -/
theorem State.Inv.closedUnderOps (i : Instr) (s : State) : ClosedUnderOps i s State.Inv where
  setPc n hu := hu.setPc n
  push h _ hs := hs.push h s.advance_pc_lt
  drop h _ hs := hs.drop h
  writeBytes a bs _ hu := hu.writeBytes a bs

/-- The reset values of `pc` and `sp` with any canonical memory meet the invariant (R38, R263). -/
theorem State.inv_of_reset (hpc : s.pc = 0x200) (hsp : s.sp = 0) (hmem : s.mem.wf) : s.Inv := by
  refine ⟨by rw [hpc]; decide, fun j hj => ?_, hmem⟩
  simp [hsp] at hj

theorem inv_of_resetWith {font : Vector Byte 80} {image : List Byte} {cfg : Cfg} {t : State}
    (h : resetWith font image cfg = .next t) : t.Inv := by
  obtain ⟨-, rfl⟩ := resetWith_cases h
  exact State.inv_of_reset rfl rfl (resetMem_wf font image)

theorem State.Inv.engineStep {t : State} (hs : s.Inv) (h : engineStep s = .next t) : t.Inv := by
  obtain ⟨-, -, hexec⟩ | ⟨-, hrefused⟩ := engineStep_cases s
  · exact (State.Inv.closedUnderOps _ s).of_exec hs (hexec.symm.trans h)
  · exact Host.Outcome.next.inj (hrefused.symm.trans h) ▸ hs

/-- Every transaction of the host keeps the invariant. -/
theorem State.Inv.transact {t : State} {a : HostAction} (hs : s.Inv) (h : transact a s = .next t) : t.Inv := by
  obtain ⟨-, hstep⟩ | ⟨-, rfl⟩ | ⟨latch, -, rfl⟩ | ⟨r, -, rfl⟩ | ⟨image, cfg, u, -, hu, rfl⟩ := transact_cases h
  · exact hs.engineStep hstep
  · exact hs
  · exact hs
  · rw [setRunState_eq]
    split <;> exact hs
  · have hinv : u.Inv := inv_of_resetWith hu
    exact hinv

end

/-- Settles O47: a step is a transaction in the state with the host's side moved on, which the invariant does not read. -/
theorem everyStepKeepsInvariant : Obligations.EveryStepKeepsInvariant := by
  intro s t hs h
  obtain ⟨a, acts, p, hstep⟩ := step_cases s
  have hs' : State.Inv { s with agenda := acts, plan := p } := hs
  exact hs'.transact (hstep.symm.trans h)

/-- Settles O46: the memory RESET builds is canonical, `pc` is 0x200 and the stack is empty. -/
theorem everyResetMeetsInvariant : Obligations.EveryResetMeetsInvariant := fun _ _ _ _ h => inv_of_resetWith h

/-- Settles O45: memory lists no byte, `pc` is 0x200 and the stack is empty. -/
theorem resetMeetsInvariant : Obligations.ResetMeetsInvariant := State.inv_of_reset rfl rfl Memory.wf_nil

/-! ### The register frame -/

/-- A bulk load leaves the registers above `V[X]` as they are (R165). -/
theorem State.loadedRegs_above (s : State) {x r : Reg} (h : ¬ r ≤ x) : (s.loadedRegs x)[r] = s.v[r] := by
  simp [State.loadedRegs, h]

/-- The operations of an instruction keep a register it neither names nor writes as the flag. -/
theorem closedUnderOps_getV {i : Instr} {s : State} {r : Reg} (hr : writesReg r i = false)
    (hflag : r = 15 → writesFlag s.cfg i = false) : ClosedUnderOps i s fun u => u.getV r = s.getV r where
  setV {u x} b hx hu := by
    have hne : x ≠ r := by rintro rfl; exact Bool.false_ne_true (hr.symm.trans hx)
    exact (u.getV_setV_other hne b).trans hu
  setVF {u} b hf hu := by
    have hne : 15 ≠ r := by rintro rfl; exact Bool.false_ne_true ((hflag rfl).symm.trans hf)
    exact (u.getV_setV_other hne b).trans hu
  setAllV := by
    rintro u x rfl -
    exact s.loadedRegs_above (of_decide_eq_false hr)

/-- Settles O51: of the operations of an instruction three write registers, and none of them this one. -/
theorem registersChangeOnlyByName : Obligations.RegistersChangeOnlyByName :=
  fun _ _ _ _ h hr hflag => (closedUnderOps_getV hr hflag).of_exec rfl h

/-! ### What belongs to the host -/

/-- `t` has the input latch, the run state, the configuration and the FONT of `s` (R30, R32, R34, R36). -/
def State.SameSession (s t : State) : Prop :=
  t.key = s.key ∧ t.runState = s.runState ∧ t.cfg = s.cfg ∧ t.font = s.font

theorem State.SameSession.refl (s : State) : s.SameSession s := ⟨rfl, rfl, rfl, rfl⟩

/-- No operation of an instruction writes what belongs to the session: every field is closed by its default. -/
theorem State.SameSession.closedUnderOps (i : Instr) (s : State) : ClosedUnderOps i s s.SameSession where

theorem exec_sameSession {i : Instr} {s t : State} (h : exec i s = .next t) : s.SameSession t :=
  (State.SameSession.closedUnderOps i s).of_exec (.refl s) h

theorem engineStep_sameSession {s t : State} (h : engineStep s = .next t) : s.SameSession t := by
  obtain ⟨-, -, hexec⟩ | ⟨-, hrefused⟩ := engineStep_cases s
  · exact exec_sameSession (hexec.symm.trans h)
  · exact Host.Outcome.next.inj (hrefused.symm.trans h) ▸ .refl s

/-- Settles O54: one case per transaction; a STEP is of the same session, a RESET copies its argument. -/
theorem cfgIsFixedForTheSession : Obligations.CfgIsFixedForTheSession := by
  intro a s t h
  obtain ⟨rfl, hstep⟩ | ⟨rfl, rfl⟩ | ⟨latch, rfl, rfl⟩ | ⟨r, rfl, rfl⟩ | ⟨image, cfg, u, rfl, hu, rfl⟩ :=
    transact_cases h
  · obtain ⟨-, -, hcfg, -⟩ := engineStep_sameSession hstep
    exact ⟨nofun, fun _ => hcfg⟩
  · exact ⟨nofun, fun _ => rfl⟩
  · exact ⟨nofun, fun _ => rfl⟩
  · refine ⟨nofun, fun _ => ?_⟩
    rw [setRunState_eq]
    split <;> rfl
  · obtain ⟨-, rfl⟩ := resetWith_cases hu
    refine ⟨fun image' cfg' he => ?_, fun hne => absurd rfl (hne image cfg)⟩
    cases he
    rfl

end Sys2Proof.Machine
end

section
/-! PROOFS. The storages and their writers, the fetch after a store, and FONT (R51, R63, R57): O52, O56, O57. -/

namespace Sys2Proof.Machine

/-! ### The writers of each storage

One lemma per storage: the property "the storage is unchanged, or the instruction is one of its writers" is kept by every
operation of an instruction, and the named operations are the ones that write the storage. -/

section
variable {i : Instr} {s t : State}

/-- What holds before an instruction holds after it, unless the instruction is one of the writers `W`, when every
operation that is not a writer's keeps it. -/
theorem exec_keeps_unless {W : Prop} (P : State → Prop) (hP : ClosedUnderOps i s fun u => P u ∨ W) (hs : P s)
    (h : exec i s = .next t) : P t ∨ W :=
  hP.of_exec (.inl hs) h

variable (h : exec i s = .next t)
include h

theorem exec_mem_writers : t.mem = s.mem ∨ ∃ x, i = .ldB x ∨ i = .ldMemVx x :=
  exec_keeps_unless (·.mem = s.mem) { writeBytes := fun _ _ hi _ => .inr hi } rfl h

theorem exec_fb_writers : t.fb = s.fb ∨ i = .cls ∨ ∃ x y n, i = .drw x y n :=
  exec_keeps_unless (·.fb = s.fb) { setFb := fun _ hi _ => .inr hi } rfl h

theorem exec_stack_writers : (t.stack = s.stack ∧ t.sp = s.sp) ∨ i = .ret ∨ ∃ nnn, i = .call nnn :=
  exec_keeps_unless (fun u => u.stack = s.stack ∧ u.sp = s.sp)
    { push := fun _ hi _ => .inr (.inr ⟨_, hi⟩), drop := fun _ hi _ => .inr (.inl hi) } ⟨rfl, rfl⟩ h

theorem exec_i_writers : t.i = s.i ∨ (∃ nnn, i = .ldI nnn) ∨ (∃ x, i = .addI x ∨ i = .ldF x) ∨
    (s.cfg.legacyIndexIncrementOnBulkTransfer = true ∧ ∃ x, i = .ldMemVx x ∨ i = .ldVxMem x) :=
  exec_keeps_unless (·.i = s.i) { setI := fun _ hi _ => .inr hi } rfl h

theorem exec_await_writers : (t.awaitValid = s.awaitValid ∧ t.awaitKey = s.awaitKey) ∨ ∃ x, i = .ldVxK x :=
  exec_keeps_unless (fun u => u.awaitValid = s.awaitValid ∧ u.awaitKey = s.awaitKey)
    { beginAwait := fun _ hi _ => .inr hi, endAwait := fun hi _ => .inr hi } ⟨rfl, rfl⟩ h

theorem exec_draw_writers : t.draw = s.draw ∨ ∃ x nn, i = .rnd x nn :=
  exec_keeps_unless (·.draw = s.draw) { nextDraw := fun hi _ => .inr hi } rfl h

/-- No operation of an instruction writes the host's side (log entry 2). -/
theorem exec_keeps_host : t.agenda = s.agenda ∧ t.plan = s.plan :=
  ClosedUnderOps.of_exec (P := fun u => u.agenda = s.agenda ∧ u.plan = s.plan) {} ⟨rfl, rfl⟩ h

end

/-- Settles O52: one frame lemma per storage; what belongs to the session and to the host no instruction writes. -/
theorem eachStorageHasItsWriters : Obligations.EachStorageHasItsWriters := by
  intro i s t h
  obtain ⟨hkey, hrun, hcfg, hfont⟩ := exec_sameSession h
  exact ⟨exec_mem_writers h, exec_fb_writers h, exec_stack_writers h, exec_i_writers h, exec_await_writers h,
    exec_draw_writers h, hkey, hrun, hcfg, hfont, exec_keeps_host h⟩

/-! ### The fetch after a store -/

section
variable (s : State)

@[simp] theorem State.bulkIndex_mem (x : Reg) : (s.bulkIndex x).mem = s.mem := by
  rw [State.bulkIndex_eq, State.setI_mem]

@[simp] theorem State.bulkIndex_pc (x : Reg) : (s.bulkIndex x).pc = s.pc := by
  rw [State.bulkIndex_eq, State.setI_pc]

theorem State.advance_pc_eq_pcPlus : s.advance.pc = s.pcPlus 2 := rfl

theorem State.pcPlus_lt (k : Nat) : (s.pcPlus k).toNat < 4096 := by
  simp only [State.pcPlus, BitVec.toNat_ofNat]
  omega

theorem State.firstRegs_getElem (x : Reg) (j : Nat) (h : j < (s.firstRegs x).length) :
    (s.firstRegs x)[j] = s.v[j]'(by have := s.firstRegs_length x; omega) := by
  simp [State.firstRegs]

/-- LD_MEM_VX in range: its memory and its `pc` (R164). -/
theorem exec_ldMemVx_inside (x : Reg) (h : s.i.toNat + x.val ≤ 4095) :
    ∃ t, exec (.ldMemVx x) s = .next t ∧ t.pc = s.pcPlus 2 ∧
      t.mem = s.mem.writeBytes s.i.toNat (s.firstRegs x) := by
  have hr : ¬ outOfRange s.i.toNat (transferCount x) := by
    rw [outOfRange_transferCount]
    omega
  refine ⟨_, checkRange_inside hr _, ?_, ?_⟩
  · rw [State.advance_pc_eq_pcPlus, State.pcPlus, State.bulkIndex_pc]
    rfl
  · exact State.bulkIndex_mem _ x

/-- LD_B in range: its memory and its `pc` (R163). -/
theorem exec_ldB_inside (x : Reg) (h : s.i.toNat + 2 ≤ 4095) :
    ∃ t, exec (.ldB x) s = .next t ∧ t.pc = s.pcPlus 2 ∧
      t.mem = s.mem.writeBytes s.i.toNat (bcdDigits s.v[x]) := by
  have hr : ¬ outOfRange s.i.toNat 3 := by
    rw [outOfRange_three]
    omega
  exact ⟨_, checkRange_inside hr _, rfl, rfl⟩

end

section
variable {s t : State}

/-- A fetch with `pc` in memory combines the byte at `pc` with the one after it (R52, R59). -/
theorem State.fetched_of_pc_lt (h : t.pc.toNat < 4096) :
    t.fetched = decodeWord (wordOfBytes (t.mem.read t.pc.toNat) (t.mem.read ((t.pc.toNat + 1) % 4096))) := by
  rw [State.fetched_eq, State.fetchAddr, Nat.mod_eq_of_lt h]
  rfl

variable {bs : List Byte} (hi : s.i = s.pcPlus 2) (hpc : t.pc = s.pcPlus 2)
  (hmem : t.mem = s.mem.writeBytes s.i.toNat bs)
include hi hpc hmem

/-- Two or more bytes stored over the next instruction are its word (R63). -/
theorem State.fetched_of_store_two (hlen : 1 < bs.length) (hr : s.i.toNat + 1 ≤ 4095) :
    t.fetched = decodeWord (wordOfBytes bs[0] bs[1]) := by
  have hpi : t.pc = s.i := hpc.trans hi.symm
  have h0 : t.mem.read s.i.toNat = bs[0] := by
    rw [hmem]
    exact Memory.read_writeBytes_inside _ _ _ 0 (by omega) (show _ < 4096 by omega)
  have h1 : t.mem.read (s.i.toNat + 1) = bs[1] := by
    rw [hmem]
    exact Memory.read_writeBytes_inside _ _ _ 1 hlen (show _ < 4096 by omega)
  rw [State.fetched_of_pc_lt (by rw [hpi]; omega), hpi, Nat.mod_eq_of_lt (by omega), h0, h1]

/-- One byte stored over the next instruction is its first byte; the second is the old one, at address 0 when the
first is the last of memory (R59, R63). -/
theorem State.fetched_of_store_one (hlen : bs.length = 1) :
    t.fetched = decodeWord (wordOfBytes bs[0] (s.mem.read ((s.i.toNat + 1) % 4096))) := by
  have hpi : t.pc = s.i := hpc.trans hi.symm
  have hlt : s.i.toNat < 4096 := hi ▸ s.pcPlus_lt 2
  have h0 : t.mem.read s.i.toNat = bs[0] := by
    rw [hmem]
    exact Memory.read_writeBytes_inside _ _ _ 0 (by omega) hlt
  have h1 : t.mem.read ((s.i.toNat + 1) % 4096) = s.mem.read ((s.i.toNat + 1) % 4096) := by
    rw [hmem]
    exact Memory.read_writeBytes_outside _ _ (by omega)
  rw [State.fetched_of_pc_lt (by rw [hpi]; exact hlt), hpi, h0, h1]

end

/-- The hundreds and the tens digit as a word: neither is narrowed (R163, R52). -/
theorem wordOfBytes_bcdDigits (b : Byte) :
    wordOfBytes (BitVec.ofNat 8 (b.toNat / 100)) (BitVec.ofNat 8 (b.toNat / 10 % 10)) =
      BitVec.ofNat 16 (b.toNat / 100 * 256 + b.toNat / 10 % 10) := by
  have := b.isLt
  rw [wordOfBytes, BitVec.toNat_ofNat, BitVec.toNat_ofNat, Nat.mod_eq_of_lt (by omega), Nat.mod_eq_of_lt (by omega)]

/-- Settles O56: the next fetch reads the bytes just stored, two of them or, for `X = 0`, one. -/
theorem storeIsSeenByNextFetch : Obligations.StoreIsSeenByNextFetch := by
  refine ⟨fun x s hx hr hi => ?_, fun s hi => ?_, fun x s hr hi => ?_⟩
  · obtain ⟨t, ht, hpc, hmem⟩ := exec_ldMemVx_inside s x hr
    refine ⟨t, ht, ?_⟩
    rw [State.fetched_of_store_two hi hpc hmem (by rw [State.firstRegs_length]; omega) (by omega),
      s.firstRegs_getElem, s.firstRegs_getElem]
    rfl
  · have hlt : s.i.toNat < 4096 := hi ▸ s.pcPlus_lt 2
    obtain ⟨t, ht, hpc, hmem⟩ := exec_ldMemVx_inside s 0 (Nat.le_of_lt_succ hlt)
    refine ⟨t, ht, ?_⟩
    rw [State.fetched_of_store_one hi hpc hmem (s.firstRegs_length 0), s.firstRegs_getElem]
    rfl
  · obtain ⟨t, ht, hpc, hmem⟩ := exec_ldB_inside s x hr
    refine ⟨t, ht, ?_⟩
    rw [State.fetched_of_store_two hi hpc hmem (by simp [bcdDigits]) (by omega), ← wordOfBytes_bcdDigits]
    rfl

/-! ### FONT -/

/-- A transaction keeps the constant FONT, a `RESET` included (R57). -/
theorem transact_font {a : HostAction} {s t : State} (h : transact a s = .next t) : t.font = s.font := by
  obtain ⟨-, hstep⟩ | ⟨-, rfl⟩ | ⟨latch, -, rfl⟩ | ⟨r, -, rfl⟩ | ⟨image, cfg, u, -, hu, rfl⟩ := transact_cases h
  · obtain ⟨-, -, -, hfont⟩ := engineStep_sameSession hstep
    exact hfont
  · rfl
  · rfl
  · rw [setRunState_eq]
    split <;> rfl
  · obtain ⟨-, rfl⟩ := resetWith_cases hu
    rfl

/-- After a `RESET` the first 80 bytes of memory are FONT: the image is loaded above them (R56, R262). -/
theorem resetWith_read_font {font : Vector Byte 80} {image : List Byte} {cfg : Cfg} {t : State}
    (h : resetWith font image cfg = .next t) {a : Nat} (ha : a < 80) : t.mem.read a = font[a] := by
  obtain ⟨-, rfl⟩ := resetWith_cases h
  have hfont : (Memory.writeBytes [] 0 font.toList).read (0 + a) = font.toList[a]'(by simpa using ha) :=
    Memory.read_writeBytes_inside _ _ _ a _ (show _ < 4096 by omega)
  rw [Nat.zero_add, Vector.getElem_toList] at hfont
  exact (Memory.read_writeBytes_outside _ _ (.inl (show _ < 0x200 by omega))).trans hfont

/-- LD_F never wraps: 5 times a byte fits `I` (R162). -/
theorem exec_ldF_i (x : Reg) (s : State) : ∃ t, exec (.ldF x) s = .next t ∧ t.i.toNat = 5 * s.v[x].toNat := by
  have hv := s.v[x].isLt
  exact ⟨_, rfl, Nat.mod_eq_of_lt (by omega)⟩

/-- Settles O57: no transaction writes FONT, and RESET writes it below the image. -/
theorem fontIsConstantAndCopied : Obligations.FontIsConstantAndCopied := by
  refine ⟨fun _ _ _ => transact_font, fun s t image cfg h d r => ?_, exec_ldF_i⟩
  obtain ⟨⟨⟩, -⟩ | ⟨⟨⟩, -⟩ | ⟨_, ⟨⟩, -⟩ | ⟨_, ⟨⟩, -⟩ | ⟨_, _, u, ⟨⟩, hu, rfl⟩ := transact_cases h
  have ha : 5 * d.val + r.val < 80 := by omega
  have hread : u.mem.read (5 * d.val + r.val) = s.font[5 * d.val + r.val] := resetWith_read_font hu ha
  rw [Vector.getElem?_eq_getElem ha]
  exact congrArg some hread

end Sys2Proof.Machine
end

section
/-! PROOFS. The decoder, the encoder and the opcode table (R70 to R75): O29, O30, O31, O32, O33. -/

namespace Sys2Proof

/-! ### What the decoded instruction stands for

Every leaf of the decoder's case tree is reached with the family nibble and the fixed low field known, so the word is put
together again from its fields. -/

theorem wordNNN_eq {op : Word} {f : Nibble} (hf : familyOf op = f) : wordNNN f (nnnOf op) = op :=
  hf ▸ wordNNN_fields op

theorem wordXNN_eq {op : Word} {f : Nibble} {nn : Byte} (hf : familyOf op = f) (hnn : nnOf op = nn) :
    wordXNN f (regNibble (xOf op)) nn = op :=
  hf ▸ hnn ▸ wordXNN_fields op

theorem word4_eq {op : Word} {f n : Nibble} (hf : familyOf op = f) (hn : nOf op = n) :
    word4 f (regNibble (xOf op)) (regNibble (yOf op)) n = op :=
  hf ▸ hn ▸ word4_fields op

/-- The list of R75 in the fields the decoder looks at: what is left of a family without its patterns. -/
def UnmatchedFields (op : Word) : Prop :=
  (familyOf op = 0x0 ∧ op ≠ 0x00E0 ∧ op ≠ 0x00EE) ∨ (familyOf op = 0x5 ∧ nOf op ≠ 0x0) ∨
  (familyOf op = 0x9 ∧ nOf op ≠ 0x0) ∨
  (familyOf op = 0x8 ∧ nOf op ∉ [0x0, 0x1, 0x2, 0x3, 0x4, 0x5, 0x6, 0x7, 0xE]) ∨
  (familyOf op = 0xE ∧ nnOf op ∉ [0x9E, 0xA1]) ∨
  (familyOf op = 0xF ∧ nnOf op ∉ [0x07, 0x0A, 0x15, 0x1E, 0x29, 0x33, 0x55, 0x65])

theorem unrecognizedWord_iff_unmatchedFields (op : Word) : unrecognizedWord op ↔ UnmatchedFields op := by
  simp only [unrecognizedWord, UnmatchedFields, ← BitVec.toNat_inj, familyOf_toNat, nOf_toNat, nnOf_toNat,
    BitVec.toNat_ofNat, BitVec.ofNat_eq_ofNat, List.mem_cons, List.not_mem_nil, or_false, ne_eq]
  omega

/-- The instruction is the reading of a word: it is well formed and its encoding is that word (R73, R75). -/
def Instr.StandsFor (i : Instr) (op : Word) : Prop := i.wellFormed = true ∧ encode i = op

/-- A word no pattern takes is read as itself. -/
theorem unrecognized_standsFor {op : Word} (h : UnmatchedFields op) : (Instr.unrecognized op).StandsFor op :=
  ⟨decide_eq_true ((unrecognizedWord_iff_unmatchedFields op).mpr h), rfl⟩

/-- Decoding reads every word. One case per family nibble (`h_1` is family 0), and within the families 0, 5, 8, 9, E and F
one per fixed low field, the last of them the words no pattern takes. -/
theorem decodeWord_standsFor (op : Word) : (decodeWord op).StandsFor op := by
  unfold decodeWord
  split
  case h_1 hf =>
    split
    next h => exact ⟨rfl, h.symm⟩
    next =>
      split
      next h => exact ⟨rfl, h.symm⟩
      next => exact unrecognized_standsFor (by simp_all [UnmatchedFields])
  case h_2 hf | h_3 hf | h_11 hf | h_12 hf => exact ⟨rfl, wordNNN_eq hf⟩
  case h_4 hf | h_5 hf | h_7 hf | h_8 hf | h_13 hf => exact ⟨rfl, wordXNN_eq hf rfl⟩
  case h_14 hf => exact ⟨rfl, word4_eq hf rfl⟩
  case h_6 hf | h_10 hf =>
    split
    next hn => exact ⟨rfl, word4_eq hf hn⟩
    next => exact unrecognized_standsFor (by simp_all [UnmatchedFields])
  case h_9 hf =>
    split
    case h_10 => exact unrecognized_standsFor (by simp_all [UnmatchedFields])
    all_goals exact ⟨rfl, word4_eq hf ‹_›⟩
  case h_15 hf =>
    split
    case h_3 => exact unrecognized_standsFor (by simp_all [UnmatchedFields])
    all_goals exact ⟨rfl, wordXNN_eq hf ‹_›⟩
  case h_16 hf =>
    split
    case h_9 => exact unrecognized_standsFor (by simp_all [UnmatchedFields])
    all_goals exact ⟨rfl, wordXNN_eq hf ‹_›⟩
  -- There is no family but the sixteen.
  case h_17 =>
    exfalso
    simp only [imp_false] at *
    bv_omega

/-! ### The rows of the opcode table -/

/-- Every operation but the catch-all has a row, and its encodings select it (R73). -/
theorem encode_selects_row {i : Instr} (hi : i.op ≠ .unrecognized) :
    ∃ r ∈ opcodeTable, r.op = i.op ∧ r.selects (encode i) = true := by
  cases i with
  | unrecognized op => exact absurd rfl hi
  | cls => exact Laws.RowMatch.cls
  | ret => exact Laws.RowMatch.ret
  | jp nnn => exact Laws.RowMatch.jp nnn
  | call nnn => exact Laws.RowMatch.call nnn
  | seImm x nn => exact Laws.RowMatch.seImm x nn
  | sneImm x nn => exact Laws.RowMatch.sneImm x nn
  | seReg x y => exact Laws.RowMatch.seReg x y
  | ldImm x nn => exact Laws.RowMatch.ldImm x nn
  | addImm x nn => exact Laws.RowMatch.addImm x nn
  | ldReg x y => exact Laws.RowMatch.ldReg x y
  | or x y => exact Laws.RowMatch.or x y
  | and x y => exact Laws.RowMatch.and x y
  | xor x y => exact Laws.RowMatch.xor x y
  | addReg x y => exact Laws.RowMatch.addReg x y
  | sub x y => exact Laws.RowMatch.sub x y
  | shr x y => exact Laws.RowMatch.shr x y
  | subn x y => exact Laws.RowMatch.subn x y
  | shl x y => exact Laws.RowMatch.shl x y
  | sneReg x y => exact Laws.RowMatch.sneReg x y
  | ldI nnn => exact Laws.RowMatch.ldI nnn
  | jpV0 nnn => exact Laws.RowMatch.jpV0 nnn
  | rnd x nn => exact Laws.RowMatch.rnd x nn
  | drw x y n => exact Laws.RowMatch.drw x y n
  | skp x => exact Laws.RowMatch.skp x
  | sknp x => exact Laws.RowMatch.sknp x
  | ldVxDt x => exact Laws.RowMatch.ldVxDt x
  | ldVxK x => exact Laws.RowMatch.ldVxK x
  | ldDtVx x => exact Laws.RowMatch.ldDtVx x
  | addI x => exact Laws.RowMatch.addI x
  | ldF x => exact Laws.RowMatch.ldF x
  | ldB x => exact Laws.RowMatch.ldB x
  | ldMemVx x => exact Laws.RowMatch.ldMemVx x
  | ldVxMem x => exact Laws.RowMatch.ldVxMem x

/-- A word of the list of R75 selects no row. -/
theorem selects_eq_false_of_unrecognizedWord {op : Word} (h : unrecognizedWord op) :
    ∀ r ∈ opcodeTable, r.selects op = false :=
  Laws.RowMatch.unrecognized op h

/-- Rows that select one word agree on the bits both of them fix. -/
theorem OpcodeRow.pattern_agree {r r' : OpcodeRow} {op : Word} (h : r.selects op = true) (h' : r'.selects op = true) :
    r.pattern &&& r'.mask = r'.pattern &&& r.mask := by
  simp only [OpcodeRow.selects, beq_iff_eq] at h h'
  rw [← h, ← h']
  ac_rfl

/-- Rows that agree on the bits both of them fix are one row: two different rows differ in such a bit. -/
theorem opcodeTable_eq_of_pattern_agree : ∀ r ∈ opcodeTable, ∀ r' ∈ opcodeTable,
    r.pattern &&& r'.mask = r'.pattern &&& r.mask → r = r' := by
  decide

/-- No word selects two rows (R74). -/
theorem opcodeTable_disjoint {r r' : OpcodeRow} {op : Word} (hr : r ∈ opcodeTable) (hr' : r' ∈ opcodeTable)
    (h : r.selects op = true) (h' : r'.selects op = true) : r = r' :=
  opcodeTable_eq_of_pattern_agree r hr r' hr' (OpcodeRow.pattern_agree h h')

/-- The row a word selects is the first one found: there is no other. -/
theorem selectOp_of_selects {r : OpcodeRow} {op : Word} (hr : r ∈ opcodeTable) (h : r.selects op = true) :
    selectOp op = r.op := by
  unfold selectOp
  split
  next r' hfind =>
    have hsel : r'.selects op = true := List.find?_some (p := fun r : OpcodeRow => r.selects op) hfind
    rw [opcodeTable_disjoint hr (List.mem_of_find?_eq_some hfind) h hsel]
  next hfind => exact absurd h (List.find?_eq_none.mp hfind r hr)

theorem selectOp_of_selects_none {op : Word} (h : ∀ r ∈ opcodeTable, r.selects op = false) :
    selectOp op = .unrecognized := by
  have hfind : opcodeTable.find? (·.selects op) = none :=
    List.find?_eq_none.mpr fun r hr => Bool.eq_false_iff.mp (h r hr)
  rw [selectOp, hfind]

/-! ### Unrecognized words -/

theorem Instr.op_eq_unrecognized_iff (i : Instr) : i.op = .unrecognized ↔ ∃ op, i = .unrecognized op := by
  cases i <;> simp [Instr.op]

/-- A reading as UNRECOGNIZED carries its word, which is one of the list of R75. -/
theorem Instr.StandsFor.of_unrecognized {op op' : Word} (h : (Instr.unrecognized op').StandsFor op) :
    op' = op ∧ unrecognizedWord op := by
  obtain ⟨hwf, rfl⟩ := h
  exact ⟨rfl, of_decide_eq_true hwf⟩

/-- A word of the list of R75 is read as UNRECOGNIZED: any other reading would select a row. -/
theorem Instr.StandsFor.op_eq_unrecognized {i : Instr} {op : Word} (h : i.StandsFor op) (hu : unrecognizedWord op) :
    i.op = .unrecognized := by
  obtain ⟨-, rfl⟩ := h
  by_contra hi
  obtain ⟨r, hr, -, hsel⟩ := encode_selects_row hi
  exact Bool.false_ne_true ((selects_eq_false_of_unrecognizedWord hu r hr).symm.trans hsel)

theorem eq_of_decodeWord_unrecognized {op op' : Word} (h : decodeWord op = .unrecognized op') :
    op' = op ∧ unrecognizedWord op :=
  (h ▸ decodeWord_standsFor op).of_unrecognized

theorem decodeWord_op_eq_unrecognized_iff (op : Word) : (decodeWord op).op = .unrecognized ↔ unrecognizedWord op := by
  constructor
  · intro hop
    obtain ⟨op', h⟩ := (Instr.op_eq_unrecognized_iff _).mp hop
    exact (eq_of_decodeWord_unrecognized h).2
  · exact (decodeWord_standsFor op).op_eq_unrecognized

theorem decodeWord_of_unrecognizedWord {op : Word} (h : unrecognizedWord op) : decodeWord op = .unrecognized op := by
  obtain ⟨op', hdec⟩ := (Instr.op_eq_unrecognized_iff _).mp ((decodeWord_op_eq_unrecognized_iff op).mpr h)
  obtain ⟨rfl, -⟩ := eq_of_decodeWord_unrecognized hdec
  exact hdec

/-! ### The obligations -/

/-- Decoding inverts encoding: the fields of a pattern are the operands it was built from. -/
theorem decodeWord_encode {i : Instr} (hi : i.wellFormed = true) : decodeWord (encode i) = i := by
  cases i with
  | unrecognized op => exact decodeWord_of_unrecognizedWord (of_decide_eq_true hi)
  | cls | ret => rfl
  | _ => simp [encode, decodeWord]

/-- Settles O29: the two bytes combine to the word, which decodes to the instruction it encodes. -/
theorem decodeOfEncodeIsIdentity : Obligations.DecodeOfEncodeIsIdentity := by
  intro i rest hi
  rw [decode_bytesOfWord, decodeWord_encode hi]

/-- Settles O30: the leaves of the decoder, one by one. -/
theorem encodeOfDecodeIsIdentity : Obligations.EncodeOfDecodeIsIdentity := decodeWord_standsFor

/-- The decoder takes the row the opcode table selects: the word is the encoding of what it decodes to. -/
theorem decodeWord_op_eq_selectOp (op : Word) : (decodeWord op).op = selectOp op := by
  by_cases hu : (decodeWord op).op = .unrecognized
  · have hnone := selects_eq_false_of_unrecognizedWord ((decodeWord_op_eq_unrecognized_iff op).mp hu)
    rw [hu, selectOp_of_selects_none hnone]
  · obtain ⟨r, hr, hop, hsel⟩ := encode_selects_row hu
    obtain ⟨-, henc⟩ := decodeWord_standsFor op
    rw [henc] at hsel
    rw [← hop, selectOp_of_selects hr hsel]

/-- Settles O31: an encoding selects its operation's row, and no word selects two. -/
theorem decoderFollowsOpcodeTable : Obligations.DecoderFollowsOpcodeTable :=
  ⟨rfl, decodeWord_op_eq_selectOp, fun _ _ _ => opcodeTable_disjoint⟩

/-- Settles O32: the readings as UNRECOGNIZED are of the listed words, and carry them. -/
theorem unrecognizedWordsExactly : Obligations.UnrecognizedWordsExactly :=
  ⟨decodeWord_op_eq_unrecognized_iff, fun _ _ h => (eq_of_decodeWord_unrecognized h).1⟩

/-- Settles O33, by evaluating the decoder on nine words. -/
theorem sampleWordsDecode : Obligations.SampleWordsDecode := by
  unfold Obligations.SampleWordsDecode
  decide

end Sys2Proof
end

section
/-! PROOFS. The configuration is read by seven instructions only (R76): O53. -/

namespace Sys2Proof.Machine

/-- A state under another configuration. -/
def State.withCfg (s : State) (cfg : Cfg) : State := { s with cfg := cfg }

section
variable (s : State) (cfg : Cfg)

/-! Each operation that decides between outcomes decides by fields the configuration is not among. -/

theorem skipIf_withCfg (c : Bool) : skipIf (s.withCfg cfg) c = mapNext (·.withCfg cfg) (skipIf s c) := by
  cases c <;> rfl

theorem checkRange_withCfg (n : Nat) {t t' : State} (ht : t' = t.withCfg cfg) :
    checkRange (s.withCfg cfg) n t' = mapNext (·.withCfg cfg) (checkRange s n t) := by
  subst ht
  by_cases hr : outOfRange s.i.toNat n
  · rw [checkRange_outside hr]
    exact checkRange_outside (s := s.withCfg cfg) hr _
  · rw [checkRange_inside hr]
    exact checkRange_inside (s := s.withCfg cfg) hr _

theorem execRet_withCfg : execRet (s.withCfg cfg) = mapNext (·.withCfg cfg) (execRet s) := by
  unfold execRet
  by_cases h : 0 < s.sp.val
  · rw [dif_pos h]
    exact dif_pos h
  · rw [dif_neg h]
    exact dif_neg h

theorem execCall_withCfg (nnn : Addr) :
    execCall nnn (s.withCfg cfg) = mapNext (·.withCfg cfg) (execCall nnn s) := by
  unfold execCall
  by_cases h : s.sp.val < Config.stackCap
  · rw [dif_pos h]
    exact dif_pos h
  · rw [dif_neg h]
    exact dif_neg h

theorem execLdVxK_withCfg (x : Reg) : execLdVxK x (s.withCfg cfg) = mapNext (·.withCfg cfg) (execLdVxK x s) := by
  have hvalid : (s.withCfg cfg).awaitValid = s.awaitValid := rfl
  have hheld : (s.withCfg cfg).keyDown (s.withCfg cfg).awaitKey = s.keyDown s.awaitKey := rfl
  have hkey : (s.withCfg cfg).key = s.key := rfl
  unfold execLdVxK
  rw [hvalid, hheld, hkey]
  split
  · split <;> rfl
  · split <;> rfl

/-- An instruction that is not one of the seven of R76 does the same under every configuration. -/
theorem exec_withCfg {i : Instr} (hi : dependsOnCfg i = false) :
    exec i (s.withCfg cfg) = mapNext (·.withCfg cfg) (exec i s) := by
  cases i with
  | shr | shl | or | and | xor | ldMemVx | ldVxMem => cases hi
  | seImm | sneImm | seReg | sneReg | skp | sknp => exact skipIf_withCfg s cfg _
  | drw | ldB => exact checkRange_withCfg s cfg _ rfl
  | ret => exact execRet_withCfg s cfg
  | call nnn => exact execCall_withCfg s cfg nnn
  | ldVxK x => exact execLdVxK_withCfg s cfg x
  | _ => rfl

end

/-- Settles O53: execution commutes with a change of the configuration. -/
theorem onlySevenInstructionsReadCfg : Obligations.OnlySevenInstructionsReadCfg :=
  fun _ s _ cfg hi h => (exec_withCfg s cfg hi).trans (congrArg (mapNext (·.withCfg cfg)) h)

end Sys2Proof.Machine
end

section
/-! PROOFS. The step cycle: the fetch, the gate and the outcome of a STEP (R90 to R97): O34, O35, O36, O37. -/

namespace Sys2Proof.Machine

section
variable {s t : State}

/-! ### The gate -/

theorem engineStep_of_open (hrun : s.runState = .running) (hfault : s.fault = .none) :
    engineStep s = exec s.fetched s :=
  if_pos (s.gateOpen_iff.mpr ⟨hrun, hfault⟩)

theorem State.not_gateOpen (h : s.runState ≠ .running ∨ s.fault ≠ .none) : ¬ s.gateOpen = true := by
  rw [s.gateOpen_iff]
  exact not_and_or.mpr h

theorem engineStep_of_closed (h : s.runState ≠ .running ∨ s.fault ≠ .none) : engineStep s = .next s :=
  if_neg (State.not_gateOpen h)

theorem stepOutcome_of_closed (h : s.runState ≠ .running ∨ s.fault ≠ .none) : stepOutcome s = .refused :=
  if_neg (State.not_gateOpen h)

/-! ### The fetch -/

theorem State.fetched_of_decode {i : Instr} {rest : List Byte} (h : decode s.fetchBytes = .ok (i, rest)) :
    s.fetched = i := by
  rw [State.fetched, h]

theorem engineStep_of_decode {i : Instr} {rest : List Byte} (hrun : s.runState = .running) (hfault : s.fault = .none)
    (hdec : decode s.fetchBytes = .ok (i, rest)) : engineStep s = exec i s := by
  rw [engineStep_of_open hrun hfault, State.fetched_of_decode hdec]

/-! ### The outcome -/

/-- With the gate open the outcome is read off the next state's fault register (R97). -/
theorem stepOutcome_of_open (hrun : s.runState = .running) (hfault : s.fault = .none)
    (h : transact .step s = .next t) :
    stepOutcome s = if t.fault = .none then completedOutcome s s.fetched else .fault t.fault := by
  have hexec : exec s.fetched s = .next t := (engineStep_of_open hrun hfault).symm.trans h
  rw [stepOutcome, if_pos (s.gateOpen_iff.mpr ⟨hrun, hfault⟩), hexec]

/-- LD_VX_K completes only when the candidate key is recorded and released (R194). -/
theorem completedOutcome_ldVxK (s : State) (x : Reg) :
    completedOutcome s (.ldVxK x) =
      if s.awaitValid = true ∧ s.key[s.awaitKey] = false then .executed else .waiting := by
  have hwait : s.stillWaiting = true ↔ ¬ (s.awaitValid = true ∧ s.key[s.awaitKey] = false) := by
    simp [State.stillWaiting, State.keyDown, imp_iff_not_or]
  simp only [completedOutcome, hwait, ite_not]

theorem completedOutcome_of_ne {i : Instr} (hu : ∀ op, i ≠ .unrecognized op) (hk : ∀ x, i ≠ .ldVxK x) :
    completedOutcome s i = .executed := by
  cases i with
  | unrecognized op => exact absurd rfl (hu op)
  | ldVxK x => exact absurd rfl (hk x)
  | _ => rfl

end

/-! ### The obligations -/

/-- Settles O34: an open gate runs the decoded instruction, and each form of the host's side names its transaction. -/
theorem stepRunsDecodedInstruction : Obligations.StepRunsDecodedInstruction := by
  refine ⟨fun s i hrun hfault hdec => engineStep_of_decode hrun hfault hdec, fun s i hready hdec => ?_,
    fun s a acts h => step_action h, fun s a acts h hp => step_repeating h hp, fun s n h hp => step_free h hp⟩
  obtain ⟨hagenda, hplan, hrun, hfault⟩ := hready
  rw [step_stepping hagenda hplan, engineStep_of_decode hrun hfault hdec]

/-- Settles O35: the fetch address is `pc` itself below 4096, and the word of the two bytes is the one written out. -/
theorem fetchIsBigEndianAndWraps : Obligations.FetchIsBigEndianAndWraps := fun _ h => State.fetched_of_pc_lt h

/-- Settles O36: a closed gate refuses, an open one executes the fetched instruction. -/
theorem closedGateRefusesStep : Obligations.ClosedGateRefusesStep :=
  ⟨fun _ h => ⟨engineStep_of_closed h, stepOutcome_of_closed h⟩, fun _ => engineStep_of_open⟩

/-- Settles O37: the outcome of an open gate is the recorded fault, or else what the fetched instruction calls for;
a closed gate refuses. -/
theorem stepOutcomeIsOneOfFive : Obligations.StepOutcomeIsOneOfFive := by
  refine ⟨fun s t hrun hfault h ht => ?_, fun s t hrun hfault h ht => ?_, fun _ => stepOutcome_of_closed⟩
  · rw [stepOutcome_of_open hrun hfault h, if_neg ht]
  · rw [stepOutcome_of_open hrun hfault h, if_pos ht]
    refine ⟨fun op hop => ?_, fun x hx => ?_, completedOutcome_of_ne⟩
    · rw [hop]
      rfl
    · rw [hx, completedOutcome_ldVxK]

end Sys2Proof.Machine
end

section
/-! PROOFS. The control transfer instructions (R110 to R117) and the jump to itself (R271): O1, O2, O3, O5, O6, O7, O55. -/

namespace Sys2Proof.Machine

section
variable (s : State)

/-! ### Writes of `pc` that need no reduction -/

/-- A word that is an address goes to `pc` as it is (R25). -/
theorem State.setPc_pc_of_lt {w : Word} (hw : w.toNat < 4096) : (s.setPc w.toNat).pc = w := by
  rw [State.setPc_pc, Nat.mod_eq_of_lt hw, BitVec.ofNat_toNat, BitVec.setWidth_eq]

/-- An address literal goes to `pc` as it is (R111). -/
theorem State.setPc_addr (nnn : Addr) : s.setPc nnn.toNat = { s with pc := nnn.setWidth 16 } :=
  congrArg (fun w => { s with pc := w }) (addr_mod nnn)

/-! ### The call stack -/

/-- What was pushed last is on top, wherever `pc` went in between (R110, R112). -/
theorem State.top_setPc_push (h : s.sp.val < Config.stackCap) (w : Word) (n : Nat) :
    ((s.push h w).setPc n).top (Nat.succ_pos _) = w := by
  simp [State.top]

/-- A pop undoes the count of a push, wherever `pc` went in between (R110, R112). -/
theorem State.drop_setPc_push_sp (h : s.sp.val < Config.stackCap) (w : Word) (n : Nat) :
    (((s.push h w).setPc n).drop (Nat.succ_pos _)).sp = s.sp := rfl

/-- The top is the entry at the `sp` a pop leaves (R110). -/
theorem State.top_eq_of_getElem? {w : Word} (h : 0 < s.sp.val) (hw : s.stack[s.sp.val - 1]? = some w) :
    s.top h = w := by
  obtain ⟨_, hget⟩ := Vector.getElem?_eq_some_iff.mp hw
  exact hget

/-! ### What each instruction does -/

theorem exec_ret_of_empty (h : s.sp.val = 0) : exec .ret s = .next (s.recordFault .stackUnderflow) :=
  dif_neg (by omega)

theorem exec_ret_of_pos (h : 0 < s.sp.val) : exec .ret s = .next ((s.drop h).setPc (s.top h).toNat) :=
  dif_pos h

theorem exec_call_of_full (nnn : Addr) (h : s.sp.val = 12) :
    exec (.call nnn) s = .next (s.recordFault .stackOverflow) :=
  dif_neg (show ¬ s.sp.val < 12 by omega)

theorem exec_call_of_room (nnn : Addr) (h : s.sp.val < Config.stackCap) :
    exec (.call nnn) s = .next ((s.push h s.advance.pc).setPc nnn.toNat) :=
  dif_pos h

theorem exec_jp (nnn : Addr) : exec (.jp nnn) s = .next { s with pc := nnn.setWidth 16 } :=
  congrArg _ (s.setPc_addr nnn)

theorem exec_jpV0 (nnn : Addr) :
    exec (.jpV0 nnn) s = .next { s with pc := BitVec.ofNat 16 ((s.v[0].toNat + nnn.toNat) % 4096) } := rfl

/-- A skip on a test of the condition `p` (R113, R118). -/
theorem skipIf_of_iff {c : Bool} {p : Prop} [Decidable p] (h : c = true ↔ p) :
    skipIf s c = .next { s with pc := if p then s.pcPlus 4 else s.pcPlus 2 } := by
  rw [skipIf_eq]
  by_cases hp : p
  · rw [if_pos hp, if_pos (h.mpr hp)]
    rfl
  · rw [if_neg hp, if_neg (mt h.mp hp)]
    rfl

end

/-- A word of family 5 or 9 whose low nibble is not 0 matches no operation (R75). -/
theorem decodeWord_word4_unrecognized {f n : Nibble} (hf : f = 0x5 ∨ f = 0x9) (hn : n ≠ 0) (x y : Nibble) :
    decodeWord (word4 f x y n) = .unrecognized (word4 f x y n) := by
  apply decodeWord_of_unrecognizedWord
  rw [unrecognizedWord_iff_unmatchedFields, UnmatchedFields, familyOf_word4, nOf_word4]
  obtain rfl | rfl := hf
  · exact .inr (.inl ⟨rfl, hn⟩)
  · exact .inr (.inr (.inl ⟨rfl, hn⟩))

/-! ### The obligations -/

/-- Settles O1: both sides of the empty stack, and a pop right after a push reads the entry pushed. -/
theorem retPopsOrUnderflows : Obligations.RetPopsOrUnderflows := by
  refine ⟨rfl, exec_ret_of_empty, fun s h => ?_, fun nnn s h => ?_⟩
  · refine ⟨_, exec_ret_of_pos s h, rfl, fun w hget hw => ?_, rfl⟩
    rw [s.top_eq_of_getElem? h hget]
    exact State.setPc_pc_of_lt _ hw
  · refine ⟨_, _, exec_call_of_room s nnn h, exec_ret_of_pos _ (Nat.succ_pos _), ?_, s.drop_setPc_push_sp h _ _⟩
    rw [s.top_setPc_push]
    exact State.setPc_pc_of_lt _ s.advance_pc_lt

/-- Settles O2: the literal is below 4096, so the write of `pc` does not reduce it. -/
theorem jpSetsPc : Obligations.JpSetsPc :=
  ⟨fun nnn => decodeWord_encode (i := .jp nnn) rfl, fun nnn s => exec_jp s nnn⟩

/-- Settles O3: both sides of the capacity; the word pushed is the advanced `pc`. -/
theorem callPushesOrOverflows : Obligations.CallPushesOrOverflows :=
  ⟨fun nnn => decodeWord_encode (i := .call nnn) rfl, fun nnn s => exec_call_of_full s nnn,
    fun nnn s h => ⟨_, exec_call_of_room s nnn h, rfl, rfl, addr_mod nnn, rfl⟩⟩

/-- Settles O5: each is a skip on its own comparison. -/
theorem skipsOnImmediate : Obligations.SkipsOnImmediate :=
  ⟨fun x nn => ⟨decodeWord_encode (i := .seImm x nn) rfl, decodeWord_encode (i := .sneImm x nn) rfl⟩,
    fun _ _ s => ⟨skipIf_of_iff s beq_iff_eq, skipIf_of_iff s bne_iff_ne⟩⟩

/-- Settles O6: each is a skip on its own comparison, and only the low nibble 0 selects one. -/
theorem skipsOnRegisters : Obligations.SkipsOnRegisters :=
  ⟨fun x y => ⟨decodeWord_encode (i := .seReg x y) rfl, decodeWord_encode (i := .sneReg x y) rfl⟩,
    fun _ _ _ hn => ⟨decodeWord_word4_unrecognized (.inl rfl) hn _ _, decodeWord_word4_unrecognized (.inr rfl) hn _ _⟩,
    fun _ _ s => ⟨skipIf_of_iff s beq_iff_eq, skipIf_of_iff s bne_iff_ne⟩⟩

/-- Settles O7: the write of `pc` reduces the sum modulo 4096. -/
theorem jpV0AddsV0 : Obligations.JpV0AddsV0 :=
  ⟨fun nnn => decodeWord_encode (i := .jpV0 nnn) rfl, fun nnn s => exec_jpV0 s nnn⟩

/-- Settles O55: the step executes the JP, which writes to `pc` what `pc` holds. -/
theorem jumpToSelfIsStable : Obligations.JumpToSelfIsStable := by
  intro s nnn hready hpc hfetched
  obtain ⟨hagenda, hplan, hrun, hfault⟩ := hready
  rw [step_stepping hagenda hplan, engineStep_of_open hrun hfault, hfetched, exec_jp, ← hpc]

end Sys2Proof.Machine
end

section
/-! PROOFS. The register load and arithmetic-logic instructions, and the flag they write (R130 to R142): O8, O9, O10, O11, O12, O13, O14. -/

namespace Sys2Proof.Machine

/-! ### The flag byte -/

theorem flagByte_zero_or_one (c : Bool) : flagByte c = 0 ∨ flagByte c = 1 :=
  (flagByte_cases c).symm.imp And.right And.right

theorem flagByte_decide (p : Prop) [Decidable p] : flagByte (decide p) = if p then 1 else 0 := by
  simp only [flagByte, decide_eq_true_eq]

theorem carry_eq_one_iff (a b : Byte) : carry a b = 1 ↔ 255 < a.toNat + b.toNat :=
  (flagByte_eq_one _).trans decide_eq_true_iff

theorem noBorrow_eq_one_iff (a b : Byte) : noBorrow a b = 1 ↔ b.toNat ≤ a.toNat :=
  (flagByte_eq_one _).trans decide_eq_true_iff

section
variable (s : State) (x y : Reg)

/-! ### The ends of an instruction as whole next states -/

theorem writeResult_eq_with (r : Byte) :
    writeResult s x r = .next { s with v := s.v.set x r, pc := s.pcPlus 2 } := rfl

theorem writeResultFlag_eq_with (r f : Byte) :
    writeResultFlag s x r f = .next { s with v := (s.v.set x r).set 15 f, pc := s.pcPlus 2 } := rfl

theorem writeBitwise_of_legacy (r : Byte) (h : s.cfg.legacyBitwiseClearsFlag = true) :
    writeBitwise s x r = writeResultFlag s x r 0 := if_pos h

theorem writeBitwise_of_not_legacy (r : Byte) (h : s.cfg.legacyBitwiseClearsFlag = false) :
    writeBitwise s x r = writeResult s x r := if_neg (Bool.eq_false_iff.mp h)

/-! ### What each instruction does, in the arithmetic of bytes (R141) -/

theorem exec_addImm (nn : Byte) : exec (.addImm x nn) s = writeResult s x (s.v[x] + nn) :=
  congrArg (writeResult s x) (sum8_eq _ _)

theorem exec_addReg : exec (.addReg x y) s = writeResultFlag s x (s.v[x] + s.v[y]) (carry s.v[x] s.v[y]) :=
  congrArg (writeResultFlag s x · _) (sum8_eq _ _)

theorem exec_sub : exec (.sub x y) s = writeResultFlag s x (s.v[x] - s.v[y]) (noBorrow s.v[x] s.v[y]) :=
  congrArg (writeResultFlag s x · _) (diff8_eq _ _)

theorem exec_subn : exec (.subn x y) s = writeResultFlag s x (s.v[y] - s.v[x]) (noBorrow s.v[y] s.v[x]) :=
  congrArg (writeResultFlag s x · _) (diff8_eq _ _)

theorem exec_shr :
    exec (.shr x y) s = writeResultFlag s x (s.shiftSource x y >>> 1) (lowBit (s.shiftSource x y)) :=
  congrArg (writeResultFlag s x · _) (half8_eq _)

theorem exec_shl :
    exec (.shl x y) s = writeResultFlag s x (s.shiftSource x y <<< 1) (highBit (s.shiftSource x y)) :=
  congrArg (writeResultFlag s x · _) (double8_eq _)

end

/-! ### The flag an instruction leaves -/

section
variable {s t : State}

/-- The flag is written last, so `V[15]` is the flag whatever register the result went to, 15 included (R95). -/
theorem writeResultFlag_flag {x : Reg} {r f : Byte} (h : writeResultFlag s x r f = .next t) : t.v[15] = f := by
  cases h
  exact (s.setV x r).getV_setVF_flag f

theorem not_outOfRange_of_faultOf_drw {x y : Reg} {n : Nibble} (h : faultOf s (.drw x y n) = .none) :
    ¬ outOfRange s.i.toNat n.toNat := by
  intro hr
  rw [faultOf, if_pos hr] at h
  cases h

theorem execDrw_flag {x y : Reg} {n : Nibble} (hr : ¬ outOfRange s.i.toNat n.toNat) (h : execDrw x y n s = .next t) :
    t.v[15] = flagByte (s.drawHit (s.spriteColumn x) (s.spriteTop y) n.toNat) := by
  cases (checkRange_inside hr _).symm.trans h
  exact State.getV_setVF_flag _ _

/-- The flag an instruction that writes it leaves is a flag byte: the cleared flag of the bitwise instructions included
(R133, R142). -/
theorem exec_flag_eq_flagByte {i : Instr} (hw : writesFlag s.cfg i = true) (hf : faultOf s i = .none)
    (h : exec i s = .next t) : ∃ c : Bool, t.v[15] = flagByte c := by
  cases i with
  | addReg | sub | shr | subn | shl => exact ⟨_, writeResultFlag_flag h⟩
  | or | and | xor => exact ⟨false, writeResultFlag_flag ((writeBitwise_of_legacy s _ _ hw).symm.trans h)⟩
  | drw => exact ⟨_, execDrw_flag (not_outOfRange_of_faultOf_drw hf) h⟩
  | _ => exact absurd hw Bool.false_ne_true

end

/-! ### The obligations -/

/-- Settles O14: every flag written is a flag byte, and after ADD_REG and SUB it is the carry and the not-borrow. -/
theorem flagIsZeroOrOne : Obligations.FlagIsZeroOrOne := by
  refine ⟨fun i s t hw hf h => ?_, fun x y s t h => ?_, fun x y s t h => ?_⟩
  · obtain ⟨c, hc⟩ := exec_flag_eq_flagByte hw hf h
    rw [hc]
    exact flagByte_zero_or_one c
  · rw [writeResultFlag_flag ((exec_addReg s x y).symm.trans h)]
    exact carry_eq_one_iff _ _
  · rw [writeResultFlag_flag ((exec_sub s x y).symm.trans h)]
    exact noBorrow_eq_one_iff _ _

/-- Settles O8: both end by writing one result. -/
theorem loadsOfARegister : Obligations.LoadsOfARegister :=
  ⟨fun x nn => decodeWord_encode (i := .ldImm x nn) rfl, fun x y => decodeWord_encode (i := .ldReg x y) rfl,
    fun x nn s => writeResult_eq_with s x nn, fun x y s => writeResult_eq_with s x s.v[y]⟩

/-- Settles O9: the sum is that of bytes, and no flag follows the result. -/
theorem addImmWrapsWithoutFlag : Obligations.AddImmWrapsWithoutFlag :=
  ⟨fun x nn => decodeWord_encode (i := .addImm x nn) rfl, fun x nn s => exec_addImm s x nn⟩

/-- Settles O10: the setting decides whether the cleared flag follows the result. -/
theorem bitwiseResultAndLegacyFlag : Obligations.BitwiseResultAndLegacyFlag :=
  ⟨fun x y => ⟨decodeWord_encode (i := .or x y) rfl, decodeWord_encode (i := .and x y) rfl,
      decodeWord_encode (i := .xor x y) rfl⟩,
    fun x _ s h => ⟨writeBitwise_of_legacy s x _ h, writeBitwise_of_legacy s x _ h, writeBitwise_of_legacy s x _ h⟩,
    fun x _ s h =>
      ⟨writeBitwise_of_not_legacy s x _ h, writeBitwise_of_not_legacy s x _ h, writeBitwise_of_not_legacy s x _ h⟩⟩

/-- Settles O11: the flag is the carry of the old registers, written out. -/
theorem addRegSumAndCarry : Obligations.AddRegSumAndCarry := by
  refine ⟨fun x y => decodeWord_encode (i := .addReg x y) rfl, fun x y s => ?_⟩
  rw [exec_addReg, carry, flagByte_decide, writeResultFlag_eq_with]

/-- Settles O12: the flag is the not-borrow of the old registers, written out. -/
theorem subtractionsAndNotBorrow : Obligations.SubtractionsAndNotBorrow := by
  refine ⟨fun x y => ⟨decodeWord_encode (i := .sub x y) rfl, decodeWord_encode (i := .subn x y) rfl⟩,
    fun x y s => ⟨?_, ?_⟩⟩
  · rw [exec_sub, noBorrow, flagByte_decide, writeResultFlag_eq_with]
  · rw [exec_subn, noBorrow, flagByte_decide, writeResultFlag_eq_with]

/-- Settles O13: the source is the configured one, and the flag is the bit that leaves it. -/
theorem shiftsAndShiftedOutBit : Obligations.ShiftsAndShiftedOutBit := by
  refine ⟨fun x y => ⟨decodeWord_encode (i := .shr x y) rfl, decodeWord_encode (i := .shl x y) rfl⟩,
    fun x y s src hsrc => ?_⟩
  obtain rfl : src = s.shiftSource x y := hsrc
  exact ⟨exec_shr s x y, exec_shl s x y⟩

end Sys2Proof.Machine
end

section
/-! PROOFS. The index register and memory instructions (R160 to R165): O15, O16, O17, O18. -/

namespace Sys2Proof.Machine

section
variable (s : State) (x : Reg)

/-! ### The index register -/

/-- `I` written and `pc` advanced, as a whole next state. -/
theorem State.setI_advance_eq_with {n : Nat} {w : Word} (h : BitVec.ofNat 16 n = w) :
    (s.setI n).advance = { s with i := w, pc := s.pcPlus 2 } :=
  congrArg (fun w => { s with i := w, pc := s.pcPlus 2 }) h

theorem exec_ldI (nnn : Addr) : exec (.ldI nnn) s = .next { s with i := nnn.setWidth 16, pc := s.pcPlus 2 } :=
  congrArg Host.Outcome.next (s.setI_advance_eq_with (BitVec.ofNat_toNat 16 nnn))

/-- The sum of the exact values, narrowed to 16 bits, is the sum of 16-bit words (R161). -/
theorem exec_addI : exec (.addI x) s = .next { s with i := s.i + s.v[x].setWidth 16, pc := s.pcPlus 2 } := by
  have hsum : BitVec.ofNat 16 (s.i.toNat + s.v[x].toNat) = s.i + s.v[x].setWidth 16 := by
    rw [BitVec.ofNat_add, BitVec.ofNat_toNat, BitVec.ofNat_toNat, BitVec.setWidth_eq]
  exact congrArg Host.Outcome.next (s.setI_advance_eq_with hsum)

/-- The exact product, narrowed to 16 bits, is the product of 16-bit words (R162). -/
theorem exec_ldF : exec (.ldF x) s = .next { s with i := 5 * s.v[x].setWidth 16, pc := s.pcPlus 2 } := by
  have hproduct : BitVec.ofNat 16 (5 * s.v[x].toNat) = 5 * s.v[x].setWidth 16 := by
    rw [BitVec.ofNat_mul, BitVec.ofNat_toNat]
    rfl
  exact congrArg Host.Outcome.next (s.setI_advance_eq_with hproduct)

/-! ### The memory instructions as whole next states, on both sides of the range check (R60) -/

theorem exec_ldB_of_le (h : s.i.toNat + 2 ≤ 4095) :
    exec (.ldB x) s =
      .next { s with mem := s.mem.writeBytes s.i.toNat (bcdDigits s.v[x]), pc := s.pcPlus 2 } :=
  checkRange_inside (mt (outOfRange_three _).mp (Nat.not_lt.mpr h)) _

theorem exec_ldB_of_lt (h : 4095 < s.i.toNat + 2) :
    exec (.ldB x) s = .next (s.recordFault .memoryAccessOutOfBounds) :=
  checkRange_outside ((outOfRange_three _).mpr h) _

theorem checkRange_transferCount_of_le (h : s.i.toNat + x.val ≤ 4095) (t : State) :
    checkRange s (transferCount x) t = .next t :=
  checkRange_inside (mt (outOfRange_transferCount _ x).mp (Nat.not_lt.mpr h)) t

theorem checkRange_transferCount_of_lt (h : 4095 < s.i.toNat + x.val) (t : State) :
    checkRange s (transferCount x) t = .next (s.recordFault .memoryAccessOutOfBounds) :=
  checkRange_outside ((outOfRange_transferCount _ x).mpr h) t

theorem exec_ldMemVx_of_le (h : s.i.toNat + x.val ≤ 4095) :
    exec (.ldMemVx x) s =
      .next { s with
        mem := s.mem.writeBytes s.i.toNat (s.firstRegs x), i := (s.bulkIndex x).i, pc := s.pcPlus 2 } := by
  refine (checkRange_transferCount_of_le s x h _).trans ?_
  rw [State.bulkIndex_eq, s.bulkIndex_eq]
  rfl

theorem exec_ldVxMem_of_le (h : s.i.toNat + x.val ≤ 4095) :
    exec (.ldVxMem x) s =
      .next { s with v := s.loadedRegs x, i := (s.bulkIndex x).i, pc := s.pcPlus 2 } := by
  refine (checkRange_transferCount_of_le s x h _).trans ?_
  rw [State.bulkIndex_eq, s.bulkIndex_eq]
  rfl

/-! ### The bytes stored and the registers loaded -/

theorem bcdDigits_length (b : Byte) : (bcdDigits b).length = 3 := rfl

theorem State.loadedRegs_getElem (j : Reg) :
    (s.loadedRegs x)[j] = if j ≤ x then s.mem.read (s.i.toNat + j.val) else s.v[j] := by
  simp [State.loadedRegs]

variable {s x}

/-- Three digits stored in range are read back in order (R163). -/
theorem State.read_writeBytes_bcdDigits (h : s.i.toNat + 2 ≤ 4095) (b : Byte) (j : Nat) (hj : j < 3) :
    (s.mem.writeBytes s.i.toNat (bcdDigits b)).read (s.i.toNat + j) = (bcdDigits b)[j]'hj :=
  Memory.read_writeBytes_inside _ _ (bcdDigits b) j hj (show _ < 4096 by omega)

/-- After a dump in range, byte `I + j` of memory is `V[j]` (R164). -/
theorem State.read_writeBytes_firstRegs (h : s.i.toNat + x.val ≤ 4095) {j : Reg} (hj : j ≤ x) :
    (s.mem.writeBytes s.i.toNat (s.firstRegs x)).read (s.i.toNat + j.val) = s.v[j] := by
  have hjx : j.val ≤ x.val := hj
  have hlen : j.val < (s.firstRegs x).length := by
    rw [State.firstRegs_length]
    omega
  rw [Memory.read_writeBytes_inside _ _ _ j.val hlen (show _ < 4096 by omega), s.firstRegs_getElem, Fin.getElem_fin]

/-- A load from where the registers were dumped gives the registers back (R164, R165). -/
theorem State.loadedRegs_of_dumped {t : State} (h : s.i.toNat + x.val ≤ 4095) (hv : t.v = s.v) (hi : t.i = s.i)
    (hmem : t.mem = s.mem.writeBytes s.i.toNat (s.firstRegs x)) : t.loadedRegs x = s.v := by
  have hget (j : Reg) : (t.loadedRegs x)[j] = s.v[j] := by
    rw [State.loadedRegs_getElem, hv, hi, hmem]
    split
    next hj => exact State.read_writeBytes_firstRegs h hj
    next => rfl
  exact Vector.ext fun j hj => hget ⟨j, hj⟩

end

/-! ### The obligations -/

/-- Settles O17: in range the block written at `I` is the first registers, out of range only the fault is recorded. -/
theorem ldMemVxStoresRegisters : Obligations.LdMemVxStoresRegisters := by
  refine ⟨fun x => decodeWord_encode (i := .ldMemVx x) rfl, fun x s h => ?_,
    fun x s h => checkRange_transferCount_of_lt s x h _⟩
  refine ⟨_, exec_ldMemVx_of_le s x h, fun j hj => State.read_writeBytes_firstRegs h hj, fun a ha => ?_,
    s.bulkIndex_i x h, rfl⟩
  refine Memory.read_writeBytes_outside _ _ ?_
  rw [State.firstRegs_length]
  omega

/-- Settles O18: in range the registers are the loaded ones, out of range only the fault is recorded, and a load after a
dump reads back what the dump wrote. -/
theorem ldVxMemLoadsRegisters : Obligations.LdVxMemLoadsRegisters :=
  ⟨fun x => decodeWord_encode (i := .ldVxMem x) rfl,
    fun x s h => ⟨_, exec_ldVxMem_of_le s x h, s.loadedRegs_getElem x, s.bulkIndex_i x h, rfl⟩,
    fun x s h => checkRange_transferCount_of_lt s x h _,
    fun x s h => ⟨_, _, exec_ldMemVx_of_le s x h, exec_ldVxMem_of_le _ x h, State.loadedRegs_of_dumped h rfl rfl rfl⟩⟩

/-- Settles O16: in range the block written at `I` is the three digits, out of range only the fault is recorded. -/
theorem ldBStoresDecimalDigits : Obligations.LdBStoresDecimalDigits := by
  refine ⟨fun x => decodeWord_encode (i := .ldB x) rfl, fun x s h => ?_, fun x s => exec_ldB_of_lt s x⟩
  have hdigit := State.read_writeBytes_bcdDigits h s.v[x]
  refine ⟨_, exec_ldB_of_le s x h, hdigit 0 (by decide), hdigit 1 (by decide), hdigit 2 (by decide), fun a ha => ?_, rfl⟩
  refine Memory.read_writeBytes_outside _ _ ?_
  rw [bcdDigits_length]
  omega

/-- Settles O15: the exact value written to `I` is narrowed to 16 bits, which is 16-bit arithmetic. -/
theorem indexRegisterInstructions : Obligations.IndexRegisterInstructions :=
  ⟨fun nnn => decodeWord_encode (i := .ldI nnn) rfl,
    fun x => ⟨decodeWord_encode (i := .addI x) rfl, decodeWord_encode (i := .ldF x) rfl⟩,
    fun nnn s => exec_ldI s nnn, fun x s => ⟨exec_addI s x, exec_ldF s x⟩⟩

end Sys2Proof.Machine
end

section
/-! PROOFS. The display instructions (R180 to R182): O19, O20, O21, O22. -/

namespace Sys2Proof.Machine

/-! ### Drawing a mask

A `Mask` says on which cells a sprite has a 1. Both forms of DRW, the model's and the loops of R181, draw a mask;
a loop draws the union of the masks of its iterations. -/

/-- The cells of the screen a sprite, or a part of it, has a 1 on. -/
abbrev Mask := Fin 32 → Fin 64 → Bool

/-- From framebuffer and collision `p`, drawing the mask `σ` gives `q` (R181). -/
structure Draws (σ : Mask) (p q : Framebuffer × Bool) : Prop where
  cell : ∀ (y : Fin 32) (x : Fin 64), q.1[y][x] = (p.1[y][x] ^^ σ y x)
  hit : q.2 = true ↔ p.2 = true ∨ ∃ (y : Fin 32) (x : Fin 64), p.1[y][x] = true ∧ σ y x = true

namespace Draws

variable {σ τ ρ : Mask} {p q r : Framebuffer × Bool}

/-- What a mask draws is determined. -/
theorem unique (hq : Draws σ p q) (hr : Draws σ p r) : q = r :=
  Prod.ext (Framebuffer.ext_cells fun y x => (hq.cell y x).trans (hr.cell y x).symm)
    (Bool.eq_iff_iff.mpr (hq.hit.trans hr.hit.symm))

/-- An empty mask draws nothing. -/
theorem of_empty (h : ∀ y x, σ y x = false) : Draws σ p p where
  cell y x := by rw [h, Bool.xor_false]
  hit := by simp [h]

/-- Two masks with no cell in common, drawn one after the other, draw their union. -/
theorem trans (hq : Draws σ p q) (hr : Draws τ q r) (hunion : ∀ y x, ρ y x = (σ y x || τ y x))
    (hdisjoint : ∀ y x, σ y x = true → τ y x = false) : Draws ρ p r where
  cell y x := by
    rw [hr.cell, hq.cell, hunion]
    cases hσ : σ y x
    · rw [Bool.xor_false, Bool.false_or]
    · rw [hdisjoint y x hσ, Bool.xor_false, Bool.true_or]
  hit := by
    have hsplit (y : Fin 32) (x : Fin 64) : p.1[y][x] = true ∧ ρ y x = true ↔
        (p.1[y][x] = true ∧ σ y x = true) ∨ (q.1[y][x] = true ∧ τ y x = true) := by
      rw [hq.cell, hunion]
      cases hσ : σ y x
      · simp
      · simp [hdisjoint y x hσ]
    simp only [hr.hit, hq.hit, hsplit, exists_or, or_assoc]

/-- A mask drawn a second time restores the framebuffer (R182). -/
theorem restores (hq : Draws σ p q) {c : Bool} (hr : Draws σ (q.1, c) r) : r.1 = p.1 :=
  Framebuffer.ext_cells fun y x => by rw [hr.cell, hq.cell, Bool.xor_assoc, Bool.xor_self, Bool.xor_false]

/-- The cells under the mask that are on after it was drawn are those it turned on (R182). -/
theorem on_under_mask_iff (hq : Draws σ p q) (y : Fin 32) (x : Fin 64) :
    q.1[y][x] = true ∧ σ y x = true ↔ p.1[y][x] = false ∧ q.1[y][x] = true := by
  rw [hq.cell]
  cases p.1[y][x] <;> cases σ y x <;> decide

/-- The flag is 1 exactly when some cell under the mask was on (R181). -/
theorem flag_eq_one_iff {fb : Framebuffer} (hq : Draws σ (fb, false) q) :
    flagByte q.2 = 1 ↔ ∃ (y : Fin 32) (x : Fin 64), fb[y][x] = true ∧ σ y x = true := by
  rw [flagByte_eq_one, hq.hit, or_iff_right Bool.false_ne_true]

/-- The flag is 0 exactly when no cell under the mask was on (R181). -/
theorem flag_eq_zero_iff {fb : Framebuffer} (hq : Draws σ (fb, false) q) :
    flagByte q.2 = 0 ↔ ∀ (y : Fin 32) (x : Fin 64), fb[y][x] = true → σ y x = false := by
  have hnot : flagByte q.2 = 0 ↔ ¬ flagByte q.2 = 1 := by cases q.2 <;> decide
  simp only [hnot, hq.flag_eq_one_iff, not_exists, not_and, Bool.not_eq_true]

end Draws

/-! ### The model's DRW draws the sprite -/

/-- The cells the sprite of `n` rows at `(x0, y0)` has a 1 on. -/
def State.spriteMask (s : State) (x0 y0 n : Nat) : Mask := fun y x => s.spritePixel x0 y0 n x.val y.val

theorem State.spriteAt_eq_spritePixel (s : State) (x0 y0 n x y : Nat) :
    s.spriteAt x0 y0 n x y = s.spritePixel x0 y0 n x y := by
  unfold State.spriteAt State.spriteByte State.spritePixel
  by_cases hy : y0 ≤ y ∧ y < y0 + n
  · simp [hy, spriteBit]
  · rw [if_neg hy, decide_eq_false fun h => hy h.2.2, Bool.false_and]

theorem State.drawn_draws (s : State) (x0 y0 n : Nat) :
    Draws (s.spriteMask x0 y0 n) (s.fb, false) (s.drawnFb x0 y0 n, s.drawHit x0 y0 n) where
  cell y x := by rw [s.drawnFb_cell, s.spriteAt_eq_spritePixel]; rfl
  hit := by simp [s.drawHit_iff, s.spriteAt_eq_spritePixel, State.spriteMask]

/-! ### The loops of R181 draw the sprite -/

/-- The cells of row `y` the columns `c` to `c + k - 1` of the sprite byte `b` have a 1 on. -/
def columnsMask (b : Byte) (x0 y c k : Nat) : Mask := fun y' x =>
  decide (y'.val = y ∧ x0 + c ≤ x.val ∧ x.val < x0 + c + k) && b.getLsbD (7 - (x.val - x0))

/-- The cells the rows `r` to `r + k - 1` of the sprite at `base` have a 1 on. -/
def rowsMask (m : Memory) (base x0 y0 r k : Nat) : Mask := fun y x =>
  decide (x0 ≤ x.val ∧ x.val < x0 + 8 ∧ y0 + r ≤ y.val ∧ y.val < y0 + r + k) &&
    (m.read (base + (y.val - y0))).getLsbD (7 - (x.val - x0))

theorem cellAt_fin (fb : Framebuffer) (y : Fin 32) (x : Fin 64) : cellAt fb x.val y.val = fb[y][x] :=
  dif_pos ⟨y.isLt, x.isLt⟩

theorem setCell_cell (fb : Framebuffer) (y y' : Fin 32) (x x' : Fin 64) (b : Bool) :
    (setCell fb x.val y.val b)[y'][x'] = if y' = y ∧ x' = x then b else fb[y'][x'] := by
  rw [setCell, dif_pos ⟨y.isLt, x.isLt⟩]
  by_cases hy : y' = y
  · subst hy
    by_cases hx : x' = x
    · simp [hx]
    · simp [hx, Vector.getElem_set_ne, Fin.val_ne_of_ne (Ne.symm hx)]
  · simp [hy, Vector.getElem_set_ne, Fin.val_ne_of_ne (Ne.symm hy)]

/-- One column has at most one cell: its own, if its sprite bit is 1. -/
theorem columnsMask_one {b : Byte} {x0 c : Nat} {x : Fin 64} (hx : x.val = x0 + c) (y y' : Fin 32) (x' : Fin 64) :
    columnsMask b x0 y.val c 1 y' x' = (decide (y' = y ∧ x' = x) && b.getLsbD (7 - c)) := by
  by_cases h : y' = y ∧ x' = x
  · obtain ⟨rfl, rfl⟩ := h
    simp [columnsMask, hx]
  · rw [columnsMask, decide_eq_false h, decide_eq_false, Bool.false_and, Bool.false_and]
    omega

/-- The body of the column loop draws its column. -/
theorem setCell_draws (b : Byte) {x0 y c : Nat} (hy : y < 32) (hx : x0 + c < 64) (p : Framebuffer × Bool) :
    Draws (columnsMask b x0 y c 1) p
      (setCell p.1 (x0 + c) y (cellAt p.1 (x0 + c) y ^^ b.getLsbD (7 - c)),
        p.2 || (b.getLsbD (7 - c) && cellAt p.1 (x0 + c) y)) := by
  have hmask := columnsMask_one (b := b) (x := ⟨x0 + c, hx⟩) rfl ⟨y, hy⟩
  have hcell := cellAt_fin p.1 ⟨y, hy⟩ ⟨x0 + c, hx⟩
  constructor
  case cell =>
    intro y' x'
    rw [setCell_cell p.1 ⟨y, hy⟩ y' ⟨x0 + c, hx⟩ x', hmask, hcell]
    by_cases h : y' = ⟨y, hy⟩ ∧ x' = ⟨x0 + c, hx⟩
    · simp [h]
    · simp [h]
  case hit =>
    simp [hmask, hcell, and_comm]

theorem columnsMask_empty {x0 c k : Nat} (h : k = 0 ∨ 64 ≤ x0 + c) (b : Byte) (y : Nat) (y' : Fin 32) (x : Fin 64) :
    columnsMask b x0 y c k y' x = false := by
  rw [columnsMask, decide_eq_false (by omega), Bool.false_and]

/-- The columns from `c` on are column `c` and those from `c + 1` on. -/
theorem columnsMask_succ (b : Byte) (x0 y c k : Nat) (y' : Fin 32) (x : Fin 64) :
    columnsMask b x0 y c (k + 1) y' x = (columnsMask b x0 y c 1 y' x || columnsMask b x0 y (c + 1) k y' x) := by
  simp only [columnsMask, ← Bool.and_or_distrib_right, ← Bool.decide_or]
  congr 2
  rw [eq_iff_iff]
  omega

theorem columnsMask_disjoint {b : Byte} {x0 y c k : Nat} {y' : Fin 32} {x : Fin 64}
    (h : columnsMask b x0 y c 1 y' x = true) : columnsMask b x0 y (c + 1) k y' x = false := by
  have hcolumn := of_decide_eq_true (Bool.and_eq_true_iff.mp h).1
  rw [columnsMask, decide_eq_false (by omega), Bool.false_and]

/-- The column loop draws the columns it goes through, those beyond the right edge being on no cell. -/
theorem drwColumns_draws (b : Byte) (x0 : Nat) {y : Nat} (hy : y < 32) (c k : Nat) (p : Framebuffer × Bool) :
    Draws (columnsMask b x0 y c k) p (drwColumns b x0 y (List.range' c k) p) := by
  induction k generalizing c p with
  | zero => exact Draws.of_empty (columnsMask_empty (.inl rfl) b y)
  | succ k ih =>
    rw [List.range'_succ, drwColumns]
    split
    next hedge => exact Draws.of_empty (columnsMask_empty (.inr hedge) b y)
    next hedge =>
      exact (setCell_draws b hy (Nat.lt_of_not_le hedge) p).trans (ih (c + 1) _) (columnsMask_succ b x0 y c k)
        fun _ _ => columnsMask_disjoint

theorem rowsMask_empty {y0 r k : Nat} (h : k = 0 ∨ 32 ≤ y0 + r) (m : Memory) (base x0 : Nat) (y : Fin 32) (x : Fin 64) :
    rowsMask m base x0 y0 r k y x = false := by
  rw [rowsMask, decide_eq_false (by omega), Bool.false_and]

/-- The rows from `r` on are row `r`, with its eight columns, and those from `r + 1` on. -/
theorem rowsMask_succ (m : Memory) (base x0 y0 r k : Nat) (y : Fin 32) (x : Fin 64) :
    rowsMask m base x0 y0 r (k + 1) y x =
      (columnsMask (m.read (base + r)) x0 (y0 + r) 0 8 y x || rowsMask m base x0 y0 (r + 1) k y x) := by
  by_cases hy : y.val = y0 + r
  · simp [rowsMask, columnsMask, hy]
  · simp only [rowsMask, columnsMask, hy, false_and, decide_false, Bool.false_and, Bool.false_or]
    congr 2
    rw [eq_iff_iff]
    omega

theorem rowsMask_disjoint {m : Memory} {b : Byte} {base x0 y0 r k : Nat} {y : Fin 32} {x : Fin 64}
    (h : columnsMask b x0 (y0 + r) 0 8 y x = true) : rowsMask m base x0 y0 (r + 1) k y x = false := by
  have hrow := of_decide_eq_true (Bool.and_eq_true_iff.mp h).1
  rw [rowsMask, decide_eq_false (by omega), Bool.false_and]

/-- The row loop draws the rows it goes through, those below the bottom edge being on no cell. -/
theorem drwRows_draws (m : Memory) (base x0 y0 r k : Nat) (p : Framebuffer × Bool) :
    Draws (rowsMask m base x0 y0 r k) p (drwRows m base x0 y0 (List.range' r k) p) := by
  induction k generalizing r p with
  | zero => exact Draws.of_empty (rowsMask_empty (.inl rfl) m base x0)
  | succ k ih =>
    rw [List.range'_succ, drwRows, List.range_eq_range']
    split
    next hedge => exact Draws.of_empty (rowsMask_empty (.inr hedge) m base x0)
    next hedge =>
      exact (drwColumns_draws _ x0 (Nat.lt_of_not_le hedge) 0 8 p).trans (ih (r + 1) _)
        (rowsMask_succ m base x0 y0 r k) fun _ _ => rowsMask_disjoint

/-- The loops of R181 draw the sprite. -/
theorem drwRows_range_draws (s : State) (x0 y0 n : Nat) (p : Framebuffer × Bool) :
    Draws (s.spriteMask x0 y0 n) p (drwRows s.mem s.i.toNat x0 y0 (List.range n) p) := by
  rw [List.range_eq_range']
  exact drwRows_draws s.mem s.i.toNat x0 y0 0 n p

/-! ### DRW as a whole next state -/

/-- The ends of a DRW in range: the framebuffer, then the flag, then the advance (R181). -/
def State.finishDraw (s : State) (p : Framebuffer × Bool) : State :=
  ((s.setFb p.1).setVF (flagByte p.2)).advance

section
variable {s : State} {x y : Reg} {n : Nibble} (p : Framebuffer × Bool)

theorem State.finishDraw_eq_with :
    s.finishDraw p = { s with fb := p.1, v := s.v.set 15 (flagByte p.2), pc := s.pcPlus 2 } := rfl

theorem State.finishDraw_flag : (s.finishDraw p).v[15] = flagByte p.2 :=
  State.getV_setVF_flag _ _

theorem State.getV_finishDraw {r : Reg} (hr : r ≠ 15) : (s.finishDraw p).getV r = s.getV r :=
  (s.setFb p.1).getV_setV_other hr.symm _

/-- The cells on which `DRW x, y, n` has a 1 in this state. -/
def State.drwMask (s : State) (x y : Reg) (n : Nibble) : Mask :=
  s.spriteMask (s.spriteColumn x) (s.spriteTop y) n.toNat

/-- A second DRW draws the same mask, when the first wrote neither coordinate (R182). -/
theorem State.finishDraw_drwMask (hx : x ≠ 15) (hy : y ≠ 15) : (s.finishDraw p).drwMask x y n = s.drwMask x y n := by
  rw [State.drwMask, State.spriteColumn, State.spriteTop, State.getV_finishDraw p hx, State.getV_finishDraw p hy]
  rfl

theorem not_outOfRange_iff {base count : Nat} : ¬ outOfRange base count ↔ count = 0 ∨ base + count - 1 ≤ 4095 := by
  unfold outOfRange
  omega

/-- In range, DRW draws its mask on a framebuffer without a collision so far (R181). -/
theorem exec_drw_inside (h : ¬ outOfRange s.i.toNat n.toNat) :
    ∃ p, Draws (s.drwMask x y n) (s.fb, false) p ∧ exec (.drw x y n) s = .next (s.finishDraw p) :=
  ⟨_, s.drawn_draws _ _ _, checkRange_inside h _⟩

theorem exec_drw_outside (h : outOfRange s.i.toNat n.toNat) :
    exec (.drw x y n) s = .next (s.recordFault .memoryAccessOutOfBounds) :=
  checkRange_outside h _

end

/-! ### The obligations -/

/-- Settles O20: the cells and the flag are those of the sprite's mask, drawn. -/
theorem drwFlipsSpriteCells : Obligations.DrwFlipsSpriteCells := by
  refine ⟨fun x y n => decodeWord_encode (i := .drw x y n) rfl, fun vx vy n s x0 y0 hr hx hy => ?_,
    fun vx vy n s hn hr => exec_drw_outside ⟨hn, hr⟩⟩
  obtain rfl : x0 = s.spriteColumn vx := hx
  obtain rfl : y0 = s.spriteTop vy := hy
  obtain ⟨p, hdraws, hexec⟩ := exec_drw_inside (x := vx) (y := vy) (not_outOfRange_iff.mpr hr)
  refine ⟨_, hexec, hdraws.cell, ?_, ?_⟩
  · rw [State.finishDraw_flag]
    exact (flagByte_zero_or_one p.2).symm.imp (fun h => ⟨h, hdraws.flag_eq_one_iff.mp h⟩)
      fun h => ⟨h, hdraws.flag_eq_zero_iff.mp h⟩
  · rw [State.finishDraw_flag]
    exact s.finishDraw_eq_with p

/-- Settles O21: the model and the loops draw the same mask, and what a mask draws is determined. -/
theorem drwMeetsItsPseudocode : Obligations.DrwMeetsItsPseudocode := by
  refine ⟨fun x y n => decodeWord_encode (i := .drw x y n) rfl, fun x y n s p hr hp => ?_,
    fun x y n s hr => exec_drw_outside hr⟩
  obtain ⟨q, hdraws, hexec⟩ := exec_drw_inside (x := x) (y := y) hr
  obtain rfl : q = p := hdraws.unique (hp ▸ drwRows_range_draws s _ _ _ _)
  exact hexec

/-- Settles O22: both draws draw the same mask. -/
theorem drawTwiceRestores : Obligations.DrawTwiceRestores := by
  intro vx vy n s hx hy hr
  have hinside := not_outOfRange_iff.mpr hr
  obtain ⟨p, hfirst, hexec⟩ := exec_drw_inside (s := s) (x := vx) (y := vy) hinside
  obtain ⟨q, hsecond, hexec'⟩ := exec_drw_inside (s := s.finishDraw p) (x := vx) (y := vy) hinside
  rw [State.finishDraw_drwMask p hx hy] at hsecond
  refine ⟨_, _, hexec, hexec', hfirst.restores hsecond, ?_, ?_, fun hempty => ⟨?_, ?_, ?_⟩⟩
  · rw [State.finishDraw_flag]
    exact flagByte_zero_or_one q.2
  · rw [State.finishDraw_flag, hsecond.flag_eq_one_iff]
    exact exists_congr fun j => exists_congr (hfirst.on_under_mask_iff j)
  · exact congrArg Prod.fst (hfirst.unique (Draws.of_empty hempty))
  · rw [State.finishDraw_flag, hfirst.flag_eq_zero_iff]
    exact fun j i _ => hempty j i
  · rw [State.finishDraw_flag, hsecond.flag_eq_zero_iff]
    exact fun j i _ => hempty j i

/-- Settles O19: the framebuffer written is the blank one. -/
theorem clsTurnsEveryCellOff : Obligations.ClsTurnsEveryCellOff := by
  refine ⟨rfl, fun s => ⟨_, rfl, fun y x => ?_, rfl⟩⟩
  simp [blankFb]

end Sys2Proof.Machine
end

section
/-! PROOFS. The key, timer and random instructions (R190 to R195): O23, O24, O25, O26, O27. -/

namespace Sys2Proof.Machine

section
variable {s t : State} {x : Reg} {k : Key}

/-! ### The key an operand names -/

theorem State.keyOperand_val (s : State) (x : Reg) : (s.keyOperand x).val = s.v[x].toNat % 16 := by
  simp [State.keyOperand, State.getV_eq]

theorem State.keyDown_keyOperand (hk : k.val = s.v[x].toNat % 16) : s.keyDown (s.keyOperand x) = s.key[k] := by
  have hoperand : s.keyOperand x = k := Fin.ext ((s.keyOperand_val x).trans hk.symm)
  rw [hoperand]
  rfl

/-! ### The least pressed key (D17) -/

theorem lowestKey_eq_some {latch : KeyLatch} (hk : latch[k] = true) (hleast : ∀ j : Key, j < k → latch[j] = false) :
    lowestKey latch = some k :=
  Fin.find?_eq_find?_finRange.symm.trans (Fin.find?_eq_some_iff.mpr ⟨hk, hleast⟩)

theorem lowestKey_eq_none {latch : KeyLatch} (h : ∀ j : Key, latch[j] = false) : lowestKey latch = none :=
  Fin.find?_eq_find?_finRange.symm.trans (Fin.find?_eq_none_iff.mpr h)

/-! ### The four cases of LD_VX_K (R194) -/

theorem exec_ldVxK_of_candidate (hvalid : s.awaitValid = true) :
    exec (.ldVxK x) s =
      if s.keyDown s.awaitKey then .next s
      else .next (s.setV x (BitVec.ofNat 8 s.awaitKey.val)).endAwait.advance :=
  if_pos hvalid

theorem exec_ldVxK_of_held (hvalid : s.awaitValid = true) (hheld : s.key[s.awaitKey] = true) :
    exec (.ldVxK x) s = .next s :=
  (exec_ldVxK_of_candidate hvalid).trans (if_pos hheld)

theorem exec_ldVxK_of_released (hvalid : s.awaitValid = true) (hup : s.key[s.awaitKey] = false) :
    exec (.ldVxK x) s = .next (s.setV x (BitVec.ofNat 8 s.awaitKey.val)).endAwait.advance :=
  (exec_ldVxK_of_candidate hvalid).trans (if_neg (Bool.eq_false_iff.mp hup))

theorem exec_ldVxK_of_no_candidate (hvalid : s.awaitValid = false) :
    exec (.ldVxK x) s = .next ((lowestKey s.key).elim s s.beginAwait) := by
  have hexec : exec (.ldVxK x) s = execLdVxK x s := rfl
  rw [hexec, execLdVxK, if_neg (Bool.eq_false_iff.mp hvalid)]
  cases lowestKey s.key <;> rfl

theorem exec_ldVxK_of_idle (hvalid : s.awaitValid = false) (hup : ∀ j : Key, s.key[j] = false) :
    exec (.ldVxK x) s = .next s := by
  rw [exec_ldVxK_of_no_candidate hvalid, lowestKey_eq_none hup, Option.elim_none]

theorem exec_ldVxK_of_pressed (hvalid : s.awaitValid = false) (hk : s.key[k] = true)
    (hleast : ∀ j : Key, j < k → s.key[j] = false) : exec (.ldVxK x) s = .next (s.beginAwait k) := by
  rw [exec_ldVxK_of_no_candidate hvalid, lowestKey_eq_some hk hleast, Option.elim_some]

/-- LD_VX_K answers a next state and records no fault (R194). -/
theorem exec_ldVxK_keeps_fault (s : State) (x : Reg) : ∃ t, exec (.ldVxK x) s = .next t ∧ t.fault = s.fault := by
  cases hvalid : s.awaitValid with
  | false =>
    refine ⟨_, exec_ldVxK_of_no_candidate hvalid, ?_⟩
    cases lowestKey s.key <;> rfl
  | true =>
    cases hkey : s.key[s.awaitKey] with
    | false => exact ⟨_, exec_ldVxK_of_released hvalid hkey, rfl⟩
    | true => exact ⟨_, exec_ldVxK_of_held hvalid hkey, rfl⟩

/-! ### The steps of LD_VX_K -/

theorem transact_step_of_fetched {i : Instr} (hrun : s.runState = .running) (hfault : s.fault = .none)
    (hfetched : s.fetched = i) : transact .step s = exec i s :=
  hfetched ▸ engineStep_of_open hrun hfault

theorem transactAll_cons {a : HostAction} {acts : List HostAction} (h : transact a s = .next t) :
    transactAll (a :: acts) s = transactAll acts t := by
  rw [transactAll, h]

theorem stepOutcome_ldVxK (hrun : s.runState = .running) (hfault : s.fault = .none) (hfetched : s.fetched = .ldVxK x) :
    stepOutcome s = if s.awaitValid = true ∧ s.key[s.awaitKey] = false then .executed else .waiting := by
  obtain ⟨t, hexec, hkept⟩ := exec_ldVxK_keeps_fault s x
  have hstep := (transact_step_of_fetched hrun hfault hfetched).trans hexec
  rw [stepOutcome_of_open hrun hfault hstep, if_pos (hkept.trans hfault), hfetched, completedOutcome_ldVxK]

theorem transact_step_records_key (hrun : s.runState = .running) (hfault : s.fault = .none)
    (hfetched : s.fetched = .ldVxK x) (hvalid : s.awaitValid = false) (hk : s.key[k] = true)
    (hleast : ∀ j : Key, j < k → s.key[j] = false) : transact .step s = .next (s.beginAwait k) :=
  (transact_step_of_fetched hrun hfault hfetched).trans (exec_ldVxK_of_pressed hvalid hk hleast)

theorem transact_step_stores_key (hrun : s.runState = .running) (hfault : s.fault = .none)
    (hfetched : s.fetched = .ldVxK x) (hvalid : s.awaitValid = true) (hup : s.key[s.awaitKey] = false) :
    transact .step s = .next (s.setV x (BitVec.ofNat 8 s.awaitKey.val)).endAwait.advance :=
  (transact_step_of_fetched hrun hfault hfetched).trans (exec_ldVxK_of_released hvalid hup)

/-- Press, step, release, step: the first step records the least pressed key, the second finds it released
(R194, R98). The fetch reads neither the latch nor the await-key fields, so both steps run the same LD_VX_K. -/
theorem transactAll_press_release {down up : KeyLatch} (hrun : s.runState = .running) (hfault : s.fault = .none)
    (hfetched : s.fetched = .ldVxK x) (hvalid : s.awaitValid = false) (hk : down[k] = true)
    (hleast : ∀ j : Key, j < k → down[j] = false) (hup : up[k] = false) :
    transactAll [.setKeys down, .step, .setKeys up, .step] s =
      .next ((((s.setKey down).beginAwait k).setKey up).setV x (BitVec.ofNat 8 k.val)).endAwait.advance := by
  have hrecord := transact_step_records_key (s := s.setKey down) hrun hfault hfetched hvalid hk hleast
  have hstore := transact_step_stores_key (s := ((s.setKey down).beginAwait k).setKey up) hrun hfault hfetched rfl hup
  rw [transactAll_cons (t := s.setKey down) rfl, transactAll_cons hrecord,
    transactAll_cons (t := ((s.setKey down).beginAwait k).setKey up) rfl, transactAll_cons hstore]
  rfl

/-! ### RND -/

theorem exec_rnd (x : Reg) (nn : Byte) (s : State) :
    exec (.rnd x nn) s = .next (s.nextDraw.setV x (Config.rnd s.draw &&& nn)).advance := rfl

end

/-! ### The obligations -/

/-- Settles O25: the four cases of the candidate and the latch, and the outcome, which no fault overrides. -/
theorem awaitKeyOneStep : Obligations.AwaitKeyOneStep :=
  ⟨fun x => decodeWord_encode (i := .ldVxK x) rfl, fun _ _ => exec_ldVxK_of_idle,
    fun _ _ _ => exec_ldVxK_of_pressed, fun _ _ => exec_ldVxK_of_held, fun _ _ => exec_ldVxK_of_released,
    fun _ _ => stepOutcome_ldVxK⟩

/-- Settles O26: the agenda's four transactions, from a state whose agenda they have left; the candidate is cleared, as
it was at the start. -/
theorem awaitKeyCompletesOnRelease : Obligations.AwaitKeyCompletesOnRelease := by
  intro x s k down up hrun hfault hvalid hfetched hagenda hk hleast hup
  have hagendaRun := run_agenda [.setKeys down, .step, .setKeys up, .step] [] s hagenda
  have hend := transactAll_press_release (s := s.withHost [] s.plan) hrun hfault hfetched hvalid hk hleast hup
  rw [hvalid]
  exact hagendaRun.trans hend

/-- Settles O23: each is a skip on the latch flag of the key the operand names. -/
theorem skipsOnKey : Obligations.SkipsOnKey := by
  refine ⟨fun x => ⟨decodeWord_encode (i := .skp x) rfl, decodeWord_encode (i := .sknp x) rfl⟩,
    fun x s k hk => ⟨skipIf_of_iff s ?_, skipIf_of_iff s ?_⟩⟩
  · rw [State.keyDown_keyOperand hk]
  · rw [State.keyDown_keyOperand hk, Bool.not_eq_true']

/-- Settles O24: a result written, and a timer written. -/
theorem delayTimerMoves : Obligations.DelayTimerMoves :=
  ⟨fun x => ⟨decodeWord_encode (i := .ldVxDt x) rfl, decodeWord_encode (i := .ldDtVx x) rfl⟩,
    fun x s => ⟨writeResult_eq_with s x s.dt, rfl⟩⟩

/-- Settles O27: a result written after the byte is counted; the conjunction with the mask is 0 where the mask is. -/
theorem rndMasksTheFreeByte : Obligations.RndMasksTheFreeByte := by
  refine ⟨fun x nn => decodeWord_encode (i := .rnd x nn) rfl, exec_rnd, fun x nn s j hj => ⟨_, exec_rnd x nn s, ?_⟩⟩
  have hresult : (s.nextDraw.setV x (Config.rnd s.draw &&& nn)).advance.v[x] = Config.rnd s.draw &&& nn :=
    s.nextDraw.getV_setV_same x _
  rw [hresult, BitVec.getLsbD_and, hj, Bool.and_false]

end Sys2Proof.Machine
end

section
/-! PROOFS. The catch-all UNRECOGNIZED (R210, R97): O28. -/

namespace Sys2Proof.Machine

section
variable {op : Word} {s : State}

theorem exec_unrecognized (op : Word) (s : State) : exec (.unrecognized op) s = .next { s with pc := s.pcPlus 2 } := rfl

/-- The advance leaves the fault register clear, so the outcome is the one that carries the word (R97). -/
theorem stepOutcome_unrecognized (hrun : s.runState = .running) (hfault : s.fault = .none)
    (hfetched : s.fetched = .unrecognized op) : stepOutcome s = .executedUnrecognized op := by
  have hstep : transact .step s = .next { s with pc := s.pcPlus 2 } :=
    (transact_step_of_fetched hrun hfault hfetched).trans (exec_unrecognized op s)
  rw [stepOutcome_of_open hrun hfault hstep, if_pos hfault, hfetched, completedOutcome]

end

/-- Settles O28: the decoder's reading of a listed word, the advance, and the outcome, which no fault overrides. -/
theorem unrecognizedOnlyAdvances : Obligations.UnrecognizedOnlyAdvances :=
  ⟨fun _ => decodeWord_of_unrecognizedWord, exec_unrecognized, fun _ _ => stepOutcome_unrecognized⟩

end Sys2Proof.Machine
end

section
/-! PROOFS. Faults (R220 to R229) and the call stack's capacity (R221): O4, O48, O49. -/

namespace Sys2Proof.Machine

/-! ### The fault an instruction raises -/

/-- The answer `o` of an instruction executed in state `s` agrees with the cause `c`: without one the instruction completes
and leaves the fault register; with one it is the state before with the cause recorded (R227). -/
structure AnswersFault (s : State) (o : Host.Outcome State Fault Refusal) (c : FaultCause) : Prop where
  completes : c = .none → ∃ t, o = .next t ∧ t.fault = s.fault
  faults : c ≠ .none → o = .next (s.recordFault c)

section
variable {i : Instr} {s t : State} {o : Host.Outcome State Fault Refusal}

theorem AnswersFault.of_next (ho : o = .next t) (ht : t.fault = s.fault) : AnswersFault s o .none :=
  ⟨fun _ => ⟨t, ho, ht⟩, absurd rfl⟩

/-- A cause raised under the condition `p`: one answer on each side of it. -/
theorem AnswersFault.of_ite {c : FaultCause} {p : Prop} [Decidable p] (hp : p → o = .next (s.recordFault c))
    (hn : ¬ p → ∃ t, o = .next t ∧ t.fault = s.fault) (hc : c ≠ .none) :
    AnswersFault s o (if p then c else .none) := by
  by_cases h : p
  · rw [if_pos h]
    exact ⟨(absurd · hc), fun _ => hp h⟩
  · rw [if_neg h]
    exact ⟨fun _ => hn h, absurd rfl⟩

/-- A range check raises its fault where the range, told by `p`, passes the end of memory (R60, R223). -/
theorem AnswersFault.checkRange {n : Nat} {p : Prop} [Decidable p] (hp : outOfRange s.i.toNat n ↔ p)
    (ht : t.fault = s.fault) :
    AnswersFault s (checkRange s n t) (if p then .memoryAccessOutOfBounds else .none) :=
  .of_ite (fun h => checkRange_outside (hp.mpr h) t) (fun h => ⟨t, checkRange_inside (mt hp.mp h) t, ht⟩) nofun

theorem AnswersFault.writeBitwise (s : State) (x : Reg) (r : Byte) : AnswersFault s (writeBitwise s x r) .none := by
  refine .of_next (writeBitwise_eq s x r) ?_
  split <;> rfl

theorem State.bulkIndex_fault (s : State) (x : Reg) : (s.bulkIndex x).fault = s.fault := by
  rw [State.bulkIndex_eq, State.setI_fault]

/-- Every instruction answers the fault whose condition holds, and only the six of R221 to R223 have one. -/
theorem exec_answersFault (i : Instr) (s : State) : AnswersFault s (exec i s) (faultOf s i) := by
  cases i with
  | call nnn =>
    refine .of_ite (exec_call_of_full s nnn) (fun h => ⟨_, exec_call_of_room s nnn ?_, rfl⟩) nofun
    exact Nat.lt_of_le_of_ne (Nat.le_of_lt_succ s.sp.isLt) h
  | ret => exact .of_ite (exec_ret_of_empty s) (fun h => ⟨_, exec_ret_of_pos s (Nat.pos_of_ne_zero h), rfl⟩) nofun
  | drw =>
    refine .checkRange Iff.rfl ?_
    rw [State.advance_fault, State.setVF_fault, State.setFb_fault]
  | ldB => exact .checkRange (outOfRange_three _) rfl
  | ldMemVx x | ldVxMem x =>
    refine .checkRange (outOfRange_transferCount _ x) ?_
    rw [State.advance_fault, State.bulkIndex_fault]
    rfl
  | or | and | xor => exact .writeBitwise s _ _
  | seImm | sneImm | seReg | sneReg | skp | sknp => exact .of_next (skipIf_eq s _) rfl
  | ldVxK x =>
    obtain ⟨t, hexec, hkept⟩ := exec_ldVxK_keeps_fault s x
    exact .of_next hexec hkept
  | _ => exact .of_next rfl rfl

/-- Everything an instruction can do to the fault register, and what it does beside that when it faults (R227). -/
theorem exec_fault_cases (h : exec i s = .next t) :
    (faultOf s i = .none ∧ t.fault = s.fault) ∨ (faultOf s i ≠ .none ∧ t = s.recordFault (faultOf s i)) := by
  by_cases hc : faultOf s i = .none
  · obtain ⟨u, hu, hkept⟩ := (exec_answersFault i s).completes hc
    obtain rfl := Host.Outcome.next.inj (h.symm.trans hu)
    exact .inl ⟨hc, hkept⟩
  · exact .inr ⟨hc, Host.Outcome.next.inj (h.symm.trans ((exec_answersFault i s).faults hc))⟩

/-- An instruction that leaves a fault where there was none answers the state before with that fault recorded, and the
fault is the one whose condition held. -/
theorem exec_new_fault (hnone : s.fault = .none) (h : exec i s = .next t) (ht : t.fault ≠ .none) :
    t.fault = faultOf s i ∧ t = s.recordFault t.fault := by
  obtain ⟨-, hkept⟩ | ⟨-, rfl⟩ := exec_fault_cases h
  · exact absurd (hkept.trans hnone) ht
  · exact ⟨rfl, rfl⟩

/-- Of the conditions of R221 to R223 only the one of CALL is StackOverflow's. -/
theorem faultOf_eq_stackOverflow (h : faultOf s i = .stackOverflow) :
    (∃ nnn, i = .call nnn) ∧ s.sp.val = 12 := by
  cases i with
  | call nnn =>
    simp only [faultOf] at h
    split at h
    next hsp => exact ⟨⟨nnn, rfl⟩, hsp⟩
    next => cases h
  | ret | drw | ldB | ldMemVx | ldVxMem =>
    simp only [faultOf] at h
    split at h <;> cases h
  | _ => cases h

end

/-! ### Nested calls -/

section
variable {s : State}

theorem nestedCalls_cons {t : State} {nnn : Addr} (h : exec (.call nnn) s = .next t) (targets : List Addr) :
    nestedCalls (nnn :: targets) s = nestedCalls targets t := by
  rw [nestedCalls, h]

/-- Nested calls within the capacity succeed, each one entry deeper (R112, R221). -/
theorem nestedCalls_of_room (targets : List Addr) (h : s.sp.val + targets.length ≤ 12) :
    ∃ t, nestedCalls targets s = .next t ∧ t.sp.val = s.sp.val + targets.length ∧ t.fault = s.fault := by
  induction targets generalizing s with
  | nil => exact ⟨s, rfl, rfl, rfl⟩
  | cons nnn targets ih =>
    rw [List.length_cons] at h
    have hroom : s.sp.val < 12 := by omega
    obtain ⟨t, ht, hsp, hfault⟩ := ih (s := (s.push hroom s.advance.pc).setPc nnn.toNat) (by
      rw [State.setPc_sp, State.push_sp]
      omega)
    refine ⟨t, (nestedCalls_cons (exec_call_of_room s nnn hroom) targets).trans ht, ?_, hfault⟩
    rw [hsp, State.setPc_sp, State.push_sp, List.length_cons]
    omega

/-- One call more than the capacity: the calls before it fill the stack, and it records the overflow (R221). -/
theorem nestedCalls_overflow (targets : List Addr) (h : s.sp.val + targets.length = 13) :
    ∃ t, nestedCalls targets s = .next t ∧ t.sp.val = 12 ∧ t.fault = .stackOverflow := by
  induction targets generalizing s with
  | nil => exact absurd h (Nat.ne_of_lt s.sp.isLt)
  | cons nnn targets ih =>
    rw [List.length_cons] at h
    by_cases hroom : s.sp.val < 12
    · rw [nestedCalls_cons (exec_call_of_room s nnn hroom)]
      apply ih
      rw [State.setPc_sp, State.push_sp]
      omega
    · have hfull : s.sp.val = 12 := by omega
      obtain rfl : targets = [] := List.length_eq_zero_iff.mp (by omega)
      exact ⟨_, nestedCalls_cons (exec_call_of_full s nnn hfull) [], hfull, rfl⟩

end

/-! ### The obligations -/

/-- Settles O48: both sides of the condition of the instruction's fault. -/
theorem faultsExactlyWhenListed : Obligations.FaultsExactlyWhenListed := by
  intro i s
  by_cases hc : faultOf s i = .none
  · obtain ⟨t, ht, hkept⟩ := (exec_answersFault i s).completes hc
    exact ⟨t, ht, fun _ => hkept, absurd hc⟩
  · exact ⟨_, (exec_answersFault i s).faults hc, (absurd · hc), fun _ => rfl⟩

/-- Settles O49: the gate is open, so the fault is the fetched instruction's own. -/
theorem faultsArePrecise : Obligations.FaultsArePrecise := by
  intro s t hrun hnone h ht
  have hexec : exec s.fetched s = .next t := (engineStep_of_open hrun hnone).symm.trans h
  obtain ⟨-, hprecise⟩ := exec_new_fault hnone hexec ht
  exact ⟨(stepOutcome_of_open hrun hnone h).trans (if_neg ht), hprecise⟩

/-- Settles O4: induction on the calls for both lengths; a new StackOverflow is the fault of the instruction's own
condition, which is CALL's. -/
theorem twelveNestedCallsThenOverflow : Obligations.TwelveNestedCallsThenOverflow := by
  refine ⟨fun targets s hempty hnone => ⟨fun hlen => ?_, fun hlen => ?_⟩, fun i s t hnone h ht => ?_⟩
  · obtain ⟨t, hcalls, hsp, hfault⟩ := nestedCalls_of_room (s := s) targets (by omega)
    exact ⟨t, hcalls, by omega, hfault.trans hnone⟩
  · exact nestedCalls_overflow targets (by omega)
  · obtain ⟨hcause, -⟩ := exec_new_fault hnone h (by rw [ht]; nofun)
    exact faultOf_eq_stackOverflow (hcause.symm.trans ht)

end Sys2Proof.Machine
end

section
/-! PROOFS. The host's transactions TICK, SET_KEYS and SET_RUN_STATE (R233, R236, R241) and the closed gate (R228, R242): O38, O39, O40, O50, O59. -/

namespace Sys2Proof.Machine

section
variable {a : HostAction} {i : Instr} {s t : State}

/-! ### TICK -/

/-- A tick decrements the timer, but not below 0 (R233). -/
theorem tick_dt_toNat (s : State) : (tick s).dt.toNat = s.dt.toNat - 1 :=
  Nat.mod_eq_of_lt (Nat.lt_of_le_of_lt (Nat.sub_le _ 1) s.dt.isLt)

theorem tick_dt (s : State) : (tick s).dt = if s.dt = 0 then 0 else s.dt - 1 := by
  apply BitVec.eq_of_toNat_eq
  rw [tick_dt_toNat]
  split
  next h => rw [h]; rfl
  next h => bv_omega

/-- TICK as a whole next state (R233). -/
theorem tick_eq_with (s : State) : tick s = { s with dt := if s.dt = 0 then 0 else s.dt - 1 } :=
  congrArg (fun b : Byte => { s with dt := b }) (tick_dt s)

/-- The one instruction that writes the timer sets it to its register (R193). -/
theorem exec_dt_writers (h : exec i s = .next t) : t.dt = s.dt ∨ ∃ x : Reg, i = .ldDtVx x ∧ t.dt = s.v[x] :=
  ClosedUnderOps.of_exec (P := fun u => u.dt = s.dt ∨ ∃ x : Reg, i = .ldDtVx x ∧ u.dt = s.v[x])
    { setDt := fun {x} hi _ => .inr ⟨x, hi, rfl⟩ } (.inl rfl) h

/-- A host whose plan repeats TICK ticks, and its side is as before (log entry 2). -/
theorem step_repeating_tick (hagenda : s.agenda = []) (hplan : s.plan = .repeating .tick []) :
    step s = .next (tick s) := by
  rw [step_repeating hagenda hplan, ← hagenda]
  rfl

/-- Any number of ticks moves the timer and nothing else. -/
theorem run_repeating_tick (k : Nat) (hagenda : s.agenda = []) (hplan : s.plan = .repeating .tick []) :
    ∃ t, Host.Core.run Sys2Proof.core k s = .next t ∧ t.dt.toNat = s.dt.toNat - k ∧ t = { s with dt := t.dt } := by
  induction k generalizing s with
  | zero => exact ⟨s, rfl, rfl, rfl⟩
  | succ k ih =>
    obtain ⟨t, hrun, hdt, hframe⟩ := ih (s := tick s) hagenda hplan
    refine ⟨t, ?_, ?_, hframe⟩
    · rw [run_succ, step_repeating_tick hagenda hplan]
      exact hrun
    · rw [hdt, tick_dt_toNat]
      omega

/-! ### SET_RUN_STATE -/

theorem setRunState_of_halted (r : RunState) (h : s.runState = .halted) : setRunState r s = s :=
  (setRunState_eq r s).trans (if_pos h)

/-- SET_RUN_STATE as a whole next state: only `run_state` moves, and not out of Halted (R241). -/
theorem setRunState_eq_with (r : RunState) (s : State) :
    setRunState r s = { s with runState := if s.runState = .halted then .halted else r } := by
  by_cases h : s.runState = .halted
  · rw [setRunState_of_halted r h, if_pos h, ← h]
  · rw [setRunState_eq, if_neg h, if_neg h]
    rfl

/-! ### What belongs to the session -/

/-- Only SET_KEYS, SET_RUN_STATE and RESET may leave the session's latch, run state, configuration or FONT changed. -/
theorem transact_session_cases (h : transact a s = .next t) :
    s.SameSession t ∨ (∃ latch, a = .setKeys latch ∧ t = setKeys latch s) ∨
    (∃ r, a = .setRunState r ∧ t = setRunState r s) ∨ (∃ image cfg, a = .reset image cfg) := by
  obtain ⟨-, hstep⟩ | ⟨-, rfl⟩ | hkeys | hrun | ⟨image, cfg, -, rfl, -⟩ := transact_cases h
  · exact .inl (engineStep_sameSession hstep)
  · exact .inl (.refl s)
  · exact .inr (.inl hkeys)
  · exact .inr (.inr (.inl hrun))
  · exact .inr (.inr (.inr ⟨image, cfg, rfl⟩))

end

/-! ### The obligations -/

/-- Settles O38: the tick as a whole next state, and the one writer of the timer. -/
theorem tickDecrementsDelayTimer : Obligations.TickDecrementsDelayTimer :=
  ⟨fun s => congrArg Host.Outcome.next (tick_eq_with s), fun _ _ _ => exec_dt_writers⟩

/-- Settles O39: SET_RUN_STATE, of the transactions that may change the session, leaves the latch. -/
theorem setKeysIsTheOnlyLatchWriter : Obligations.SetKeysIsTheOnlyLatchWriter := by
  refine ⟨fun _ _ => rfl, fun a s t h => ?_⟩
  obtain ⟨hkey, -, -, -⟩ | ⟨latch, ha, -⟩ | ⟨r, -, rfl⟩ | hreset := transact_session_cases h
  · exact .inl hkey
  · exact .inr (.inl ⟨latch, ha⟩)
  · rw [setRunState_eq_with]
    exact .inl rfl
  · exact .inr (.inr hreset)

/-- Settles O40: SET_KEYS, of the transactions that may change the session, leaves the run state. -/
theorem runStateMovesOnlyByRequest : Obligations.RunStateMovesOnlyByRequest := by
  refine ⟨fun s r => congrArg Host.Outcome.next (setRunState_eq_with r s), fun a s t h => ?_⟩
  obtain ⟨-, hrun, -, -⟩ | ⟨latch, -, rfl⟩ | ⟨r, ha, -⟩ | hreset := transact_session_cases h
  · exact .inl hrun
  · exact .inl rfl
  · exact .inr (.inl ⟨r, ha⟩)
  · exact .inr (.inr hreset)

/-- Settles O50: one case per transaction; the closed gate refuses the STEP. -/
theorem closedGateFreezesTheMachine : Obligations.ClosedGateFreezesTheMachine := by
  intro a s hclosed hreset
  cases a with
  | step => exact ⟨s, engineStep_of_closed hclosed, rfl, fun _ => rfl, fun _ => rfl, fun _ => rfl, fun _ => rfl, id⟩
  | tick => exact ⟨_, rfl, rfl, nofun, fun h => absurd rfl h, fun _ => rfl, fun _ => rfl, id⟩
  | setKeys latch => exact ⟨_, rfl, rfl, nofun, fun _ => rfl, fun h => absurd rfl (h latch), fun _ => rfl, id⟩
  | setRunState r =>
    exact ⟨_, congrArg Host.Outcome.next (setRunState_eq_with r s), rfl, nofun, fun _ => rfl, fun _ => rfl,
      fun h => absurd rfl (h r), fun hhalted => if_pos hhalted⟩
  | reset image cfg => exact absurd rfl (hreset image cfg)

/-- Settles O59, by induction on the number of steps. -/
theorem hostMayTickForEver : Obligations.HostMayTickForEver := fun k _ => run_repeating_tick k

end Sys2Proof.Machine
end

section
/-! PROOFS. RESET and the first fetch after it (R260 to R264): O41, O42, O43, O44. -/

namespace Sys2Proof.Machine

section
variable {font : Vector Byte 80} {image : List Byte} {cfg : Cfg} {t : State}

/-! ### The size of the image -/

theorem resetWith_of_lt (font : Vector Byte 80) (cfg : Cfg) (h : 3584 < image.length) :
    resetWith font image cfg = .fault .imageTooLarge :=
  if_neg (Nat.not_le.mpr h)

theorem resetWith_of_le (font : Vector Byte 80) (cfg : Cfg) (h : image.length ≤ 3584) :
    ∃ t, resetWith font image cfg = .next t :=
  ⟨_, if_pos h⟩

theorem transact_reset_of_fault {s : State} {e : Fault} (h : resetWith s.font image cfg = .fault e) :
    transact (.reset image cfg) s = .fault e := by
  rw [transact, h]

theorem transact_reset_of_next {s : State} (h : resetWith s.font image cfg = .next t) :
    transact (.reset image cfg) s = .next { t with draw := s.draw, agenda := s.agenda, plan := s.plan } := by
  rw [transact, h]

/-! ### The memory RESET builds -/

/-- Memory before the image is loaded: FONT, then zeros (R262). -/
theorem Memory.read_font (font : Vector Byte 80) (a : Nat) :
    (Memory.writeBytes [] 0 font.toList).read a = if h : a < 80 then font[a] else 0 := by
  by_cases h : a < 80
  · have hinside := Memory.read_writeBytes_inside [] 0 font.toList a (by simpa using h) (show 0 + a < 4096 by omega)
    rw [Nat.zero_add, Vector.getElem_toList] at hinside
    rw [hinside, dif_pos h]
  · have houtside := Memory.read_writeBytes_outside [] (a := 0) (a' := a) font.toList (.inr (by simpa using h))
    rw [houtside, dif_neg h]
    exact dif_neg h

/-- Between FONT and the image memory is zero (R262). -/
theorem resetWith_read_gap (h : resetWith font image cfg = .next t) {a : Nat} (hlo : 80 ≤ a) (hhi : a < 512) :
    t.mem.read a = 0 := by
  obtain ⟨-, rfl⟩ := resetWith_cases h
  have hbelow := Memory.read_writeBytes_outside (Memory.writeBytes [] 0 font.toList) image (Or.inl hhi)
  exact hbelow.trans ((Memory.read_font font a).trans (dif_neg (Nat.not_lt.mpr hlo)))

/-- From 0x200 on memory is the image, and zero where the image has no byte (R262). -/
theorem resetWith_read_image (h : resetWith font image cfg = .next t) {j : Nat} (hj : 512 + j ≤ 4095) :
    t.mem.read (512 + j) = image[j]?.getD 0 := by
  obtain ⟨-, rfl⟩ := resetWith_cases h
  by_cases hlt : j < image.length
  · rw [List.getElem?_eq_getElem hlt, Option.getD_some]
    exact Memory.read_writeBytes_inside _ 512 image j hlt (Nat.lt_succ_of_le hj)
  · rw [List.getElem?_eq_none (Nat.not_lt.mp hlt), Option.getD_none]
    have habove := Memory.read_writeBytes_outside (a := 512) (a' := 512 + j)
      (Memory.writeBytes [] 0 font.toList) image (.inr (by omega))
    exact habove.trans ((Memory.read_font font _).trans (dif_neg (by omega)))

/-- An address memory does not list reads as the default FONT does, so writing that table lists none (R56; log entry 8). -/
theorem Memory.writeBytes_defaultFont : Memory.writeBytes [] 0 defaultFont.toList = [] :=
  Memory.ext_of_read (Memory.wf_writeBytes Memory.wf_nil _ _) Memory.wf_nil (Memory.read_font defaultFont)

end

/-! ### The obligations -/

/-- Settles O41: both sides of 3584, as a function and as a transaction. -/
theorem resetChecksImageSize : Obligations.ResetChecksImageSize := by
  refine ⟨fun font _ cfg => resetWith_of_lt font cfg, fun font _ cfg => resetWith_of_le font cfg,
    fun s image cfg => ⟨fun hlen => transact_reset_of_fault (resetWith_of_lt s.font cfg hlen), fun hlen => ?_⟩⟩
  obtain ⟨t, ht⟩ := resetWith_of_le s.font cfg hlen
  exact ⟨t, ht, transact_reset_of_next ht⟩

/-- Settles O42: the memory by its ranges, and every other field as the record RESET builds. -/
theorem resetStateIsAsListed : Obligations.ResetStateIsAsListed := by
  intro font image cfg hlen
  obtain ⟨t, ht⟩ := resetWith_of_le font cfg hlen
  refine ⟨t, ht, fun a => resetWith_read_font ht a.isLt, fun a => resetWith_read_gap ht, fun j hj => ?_,
    fun a hlo hhi => ?_, ?_⟩
  · rw [resetWith_read_image ht (by omega), List.getElem?_eq_getElem hj, Option.getD_some]
  · obtain ⟨j, rfl⟩ := Nat.exists_eq_add_of_le (Nat.le_of_add_right_le hlo)
    rw [resetWith_read_image ht hhi, List.getElem?_eq_none (Nat.le_of_add_le_add_left hlo), Option.getD_none]
  · obtain ⟨-, rfl⟩ := resetWith_cases ht
    refine ⟨fun r => Vector.getElem_replicate r.isLt, rfl, rfl, rfl, fun j => Vector.getElem_replicate j.isLt, rfl,
      fun y x => ?_, fun k => Vector.getElem_replicate k.isLt, rfl, rfl, rfl, rfl, rfl, rfl⟩
    simp [State.reset]

/-- Settles O43: `pc` is 0x200, and the two bytes fetched are the image's first. -/
theorem firstFetchIsAtProgramBase : Obligations.FirstFetchIsAtProgramBase := by
  intro font image cfg t h
  have hpc : t.pc = 0x200 := by
    obtain ⟨-, rfl⟩ := resetWith_cases h
    rfl
  have hfirst : t.mem.read 0x200 = image[0]?.getD 0 := resetWith_read_image h (j := 0) (by omega)
  have hsecond : t.mem.read 0x201 = image[1]?.getD 0 := resetWith_read_image h (j := 1) (by omega)
  refine ⟨hpc, ?_⟩
  rw [← hfirst, ← hsecond, State.fetched_of_pc_lt (by rw [hpc]; decide), hpc]
  rfl

/-- Settles O44: the default FONT leaves memory unlisted, and the empty image writes nothing. -/
theorem resetIsEmptyImageWithDefaults : Obligations.ResetIsEmptyImageWithDefaults :=
  congrArg (fun m : Memory => Host.Outcome.next ({ State.reset with mem := m } : State)) Memory.writeBytes_defaultFont

end Sys2Proof.Machine
end
